-- ==== Sys2Proof/Word.lean ====
section
/-! DEFINITION. The word types of UFT-ENC: all host registers are 32 bits (spec/10_state.md section 2). -/

namespace Sys2Proof

/-- A 32-bit register or command word. -/
abbrev Word := BitVec 32

/-- A 16-cell word or a 16-bit field. -/
abbrev Half := BitVec 16

/-- A data byte or a disk byte. -/
abbrev Byte := BitVec 8

end Sys2Proof
end

