-- ==== Sys2Proof/Syntax.lean ====
section
/-! DEFINITION. The commands of spec/30_encoding.md: the raw command word's three fields (R130) and
the instruction each legal word stands for, one constructor per row of the opcode map (R135).
An operand has exactly the width k of its row, so an instruction is well formed by its type; the
checks of R136 are on the raw fields (WellFormed.lean). -/

namespace Sys2Proof

/-- The three fields of a command word (R130). -/
structure Command where
  opc : BitVec 8
  sel : BitVec 8
  imm : BitVec 16
deriving DecidableEq, Repr

/-- SEL of MFM.ENC.SYNC (R207). -/
inductive SyncKind
  | a1
  | c2
deriving DecidableEq, Repr

/-- SEL of FM.ENC.MARK (R220). -/
inductive FmMark
  | idam
  | dam
  | ddam
  | iam
deriving DecidableEq, Repr

/-- SEL of AMI.ENC.HALF (R333). -/
inductive AmiHalf
  | odd
  | even
deriving DecidableEq, Repr

/-- The commands of R135. A one-bit operand (a cell or a previous bit) is a Bool, true for 1. -/
inductive Instr
  | nop
  | srst (mask : BitVec 8)
  | mfmDecCell (b : Bool)
  | mfmEncByte (d : BitVec 8)
  | mfmEncSync (kind : SyncKind)
  | mfmEncPrev (b : Bool)
  | fmDecCell (b : Bool)
  | fmEncByte (d : BitVec 8)
  | fmEncMark (kind : FmMark)
  | m2fmDecCell (b : Bool)
  | m2fmEncByte (d : BitVec 8)
  | m2fmEncPrev (v : BitVec 2)
  | gcr5EncNib (n : BitVec 4)
  | gcr5DecCode (c : BitVec 5)
  | gcr5EncByte (d : BitVec 8)
  | gcr5DecWord (c : BitVec 10)
  | gcr5DecCell (b : Bool)
  | a62Enc (v : BitVec 6)
  | a62Dec (x : BitVec 8)
  | a53Enc (v : BitVec 5)
  | a53Dec (x : BitVec 8)
  | aplDecCell (b : Bool)
  | aproStep (x : BitVec 8)
  | amiEncLong
  | amiEncHalf (half : AmiHalf)
  | amiDecLong
  | amiEncPrev (b : Bool)
  | amiCsumClr
  | amiCsumAdd
  | crc16Init
  | crc16Load (v : BitVec 16)
  | crc16Byte (b : BitVec 8)
  | crc32Init
  | crc32Load
  | crc32Byte (b : BitVec 8)
  | crc32beInit
  | crc32beLoad
  | crc32beByte (b : BitVec 8)
  | fluxClr
  | fluxPush
  | histBuild
  | peakFind
  | classify
  | fluxCells
deriving DecidableEq, Repr

end Sys2Proof
end

