-- ==== Sys2Proof/Decode.lean ====
section
/-! DEFINITION. The decoder of spec/30_encoding.md R136, total on all 2^32 words, and the encoder of
the same table (R135). -/

namespace Sys2Proof

/-- Why a word is no command (R136, R442 items 1 to 3): rejected with ILLEGAL_CMD, ILLEGAL_CMD and
BAD_OPERAND in that order. -/
inductive DecodeError
  /-- OPC is not in the opcode map. -/
  | illegalOpc
  /-- SEL is not legal for the OPC. -/
  | illegalSel
  /-- IMM has a bit set above the operand width. -/
  | immTooWide
deriving DecidableEq, Repr

/-- One row of R135: how many selector values are legal (0 up to one less), the immediate width k,
and the command the fields stand for. -/
structure OpRow where
  sels : Nat
  k : Nat
  build : BitVec 8 → BitVec 16 → Instr

/-- A row without selector and without immediate. -/
def plainRow (i : Instr) : OpRow := ⟨1, 0, fun _ _ => i⟩

/-- A row with a one-bit immediate. -/
def bitRow (mk : Bool → Instr) : OpRow := ⟨1, 1, fun _ imm => mk (imm.getLsbD 0)⟩

/-- A row with a k-bit immediate (R132: IMM[k-1:0], unsigned). -/
def immRow (k : Nat) (mk : BitVec k → Instr) : OpRow := ⟨1, k, fun _ imm => mk (imm.setWidth k)⟩

/-- SEL of MFM.ENC.SYNC (R207). -/
def syncOfSel (sel : BitVec 8) : SyncKind := if sel = 0 then .a1 else .c2

/-- SEL of FM.ENC.MARK (R220). -/
def markOfSel (sel : BitVec 8) : FmMark :=
  if sel = 0 then .idam else if sel = 1 then .dam else if sel = 2 then .ddam else .iam

/-- SEL of AMI.ENC.HALF (R333). -/
def halfOfSel (sel : BitVec 8) : AmiHalf := if sel = 0 then .odd else .even

/-- The opcode map of R135. -/
def opRow (opc : BitVec 8) : Option OpRow :=
  match opc.toNat with
  | 0x00 => some (plainRow .nop)
  | 0x01 => some ⟨256, 0, fun sel _ => .srst sel⟩
  | 0x10 => some (bitRow .mfmDecCell)
  | 0x11 => some (immRow 8 .mfmEncByte)
  | 0x12 => some ⟨2, 0, fun sel _ => .mfmEncSync (syncOfSel sel)⟩
  | 0x13 => some (bitRow .mfmEncPrev)
  | 0x14 => some (bitRow .fmDecCell)
  | 0x15 => some (immRow 8 .fmEncByte)
  | 0x16 => some ⟨4, 0, fun sel _ => .fmEncMark (markOfSel sel)⟩
  | 0x18 => some (bitRow .m2fmDecCell)
  | 0x19 => some (immRow 8 .m2fmEncByte)
  | 0x1A => some (immRow 2 .m2fmEncPrev)
  | 0x20 => some (immRow 4 .gcr5EncNib)
  | 0x21 => some (immRow 5 .gcr5DecCode)
  | 0x22 => some (immRow 8 .gcr5EncByte)
  | 0x23 => some (immRow 10 .gcr5DecWord)
  | 0x24 => some (bitRow .gcr5DecCell)
  | 0x28 => some (immRow 6 .a62Enc)
  | 0x29 => some (immRow 8 .a62Dec)
  | 0x2A => some (immRow 5 .a53Enc)
  | 0x2B => some (immRow 8 .a53Dec)
  | 0x2C => some (bitRow .aplDecCell)
  | 0x2D => some (immRow 8 .aproStep)
  | 0x30 => some (plainRow .amiEncLong)
  | 0x31 => some ⟨2, 0, fun sel _ => .amiEncHalf (halfOfSel sel)⟩
  | 0x32 => some (plainRow .amiDecLong)
  | 0x33 => some (bitRow .amiEncPrev)
  | 0x34 => some (plainRow .amiCsumClr)
  | 0x35 => some (plainRow .amiCsumAdd)
  | 0x40 => some (plainRow .crc16Init)
  | 0x41 => some (immRow 16 .crc16Load)
  | 0x42 => some (immRow 8 .crc16Byte)
  | 0x44 => some (plainRow .crc32Init)
  | 0x45 => some (plainRow .crc32Load)
  | 0x46 => some (immRow 8 .crc32Byte)
  | 0x48 => some (plainRow .crc32beInit)
  | 0x49 => some (plainRow .crc32beLoad)
  | 0x4A => some (immRow 8 .crc32beByte)
  | 0x50 => some (plainRow .fluxClr)
  | 0x51 => some (plainRow .fluxPush)
  | 0x52 => some (plainRow .histBuild)
  | 0x53 => some (plainRow .peakFind)
  | 0x54 => some (plainRow .classify)
  | 0x55 => some (plainRow .fluxCells)
  | _ => none

/-- R131: the fields of a command word. -/
def commandOfWord (w : Word) : Command where
  opc := w.extractLsb' 24 8
  sel := w.extractLsb' 16 8
  imm := w.extractLsb' 0 16

/-- R136, on the raw fields: OPC first, then SEL, then IMM[15:k]. -/
def decodeCommand (c : Command) : Except DecodeError Instr :=
  match opRow c.opc with
  | none => .error .illegalOpc
  | some r =>
    if r.sels ≤ c.sel.toNat then .error .illegalSel
    else if (c.imm >>> r.k) ≠ 0 then .error .immTooWide
    else .ok (r.build c.sel c.imm)

/-- R136: decoding of a command word. -/
def decode (w : Word) : Except DecodeError Instr := decodeCommand (commandOfWord w)

/-- The decoder on the bits of a row of the opcode table: every command is exactly one 32-bit word
(R138). -/
def decodeTableWord (nbits w : Nat) : Option Instr :=
  if w % 2 ^ nbits < 2 ^ 32 then (decode (BitVec.ofNat 32 (w % 2 ^ nbits))).toOption else none

/-! ### The encoder -/

/-- SEL of a sync kind (R207). -/
def SyncKind.sel : SyncKind → BitVec 8
  | .a1 => 0
  | .c2 => 1

/-- SEL of an FM mark (R220). -/
def FmMark.sel : FmMark → BitVec 8
  | .idam => 0
  | .dam => 1
  | .ddam => 2
  | .iam => 3

/-- SEL of an Amiga half (R333). -/
def AmiHalf.sel : AmiHalf → BitVec 8
  | .odd => 0
  | .even => 1

/-- A row's fields: OPC and a one-bit immediate. -/
def bitCommand (opc : BitVec 8) (b : Bool) : Command := ⟨opc, 0, (BitVec.ofBool b).setWidth 16⟩

/-- The fields of a command (R135). -/
def encodeCommand : Instr → Command
  | .nop => ⟨0x00, 0, 0⟩
  | .srst mask => ⟨0x01, mask, 0⟩
  | .mfmDecCell b => bitCommand 0x10 b
  | .mfmEncByte d => ⟨0x11, 0, d.setWidth 16⟩
  | .mfmEncSync kind => ⟨0x12, kind.sel, 0⟩
  | .mfmEncPrev b => bitCommand 0x13 b
  | .fmDecCell b => bitCommand 0x14 b
  | .fmEncByte d => ⟨0x15, 0, d.setWidth 16⟩
  | .fmEncMark kind => ⟨0x16, kind.sel, 0⟩
  | .m2fmDecCell b => bitCommand 0x18 b
  | .m2fmEncByte d => ⟨0x19, 0, d.setWidth 16⟩
  | .m2fmEncPrev v => ⟨0x1A, 0, v.setWidth 16⟩
  | .gcr5EncNib n => ⟨0x20, 0, n.setWidth 16⟩
  | .gcr5DecCode c => ⟨0x21, 0, c.setWidth 16⟩
  | .gcr5EncByte d => ⟨0x22, 0, d.setWidth 16⟩
  | .gcr5DecWord c => ⟨0x23, 0, c.setWidth 16⟩
  | .gcr5DecCell b => bitCommand 0x24 b
  | .a62Enc v => ⟨0x28, 0, v.setWidth 16⟩
  | .a62Dec x => ⟨0x29, 0, x.setWidth 16⟩
  | .a53Enc v => ⟨0x2A, 0, v.setWidth 16⟩
  | .a53Dec x => ⟨0x2B, 0, x.setWidth 16⟩
  | .aplDecCell b => bitCommand 0x2C b
  | .aproStep x => ⟨0x2D, 0, x.setWidth 16⟩
  | .amiEncLong => ⟨0x30, 0, 0⟩
  | .amiEncHalf half => ⟨0x31, half.sel, 0⟩
  | .amiDecLong => ⟨0x32, 0, 0⟩
  | .amiEncPrev b => bitCommand 0x33 b
  | .amiCsumClr => ⟨0x34, 0, 0⟩
  | .amiCsumAdd => ⟨0x35, 0, 0⟩
  | .crc16Init => ⟨0x40, 0, 0⟩
  | .crc16Load v => ⟨0x41, 0, v⟩
  | .crc16Byte b => ⟨0x42, 0, b.setWidth 16⟩
  | .crc32Init => ⟨0x44, 0, 0⟩
  | .crc32Load => ⟨0x45, 0, 0⟩
  | .crc32Byte b => ⟨0x46, 0, b.setWidth 16⟩
  | .crc32beInit => ⟨0x48, 0, 0⟩
  | .crc32beLoad => ⟨0x49, 0, 0⟩
  | .crc32beByte b => ⟨0x4A, 0, b.setWidth 16⟩
  | .fluxClr => ⟨0x50, 0, 0⟩
  | .fluxPush => ⟨0x51, 0, 0⟩
  | .histBuild => ⟨0x52, 0, 0⟩
  | .peakFind => ⟨0x53, 0, 0⟩
  | .classify => ⟨0x54, 0, 0⟩
  | .fluxCells => ⟨0x55, 0, 0⟩

/-- R139: a command assembles to `OPC << 24 | SEL << 16 | IMM`. -/
def wordOfCommand (c : Command) : Word :=
  (c.opc.setWidth 32 <<< 24) ||| (c.sel.setWidth 32 <<< 16) ||| c.imm.setWidth 32

/-- The command word of an instruction. -/
def encode (i : Instr) : Word := wordOfCommand (encodeCommand i)

end Sys2Proof
end

