-- ==== Sys2Proof/Config.lean ====
section
/-! DEFINITION. What an implementation fixes: the parameters of spec/00_scope.md R6, and the free values. -/

namespace Sys2Proof.Config

/-- PEAK_ORDER (R6): the order in which PEAK.FIND offers candidates to the separation test. -/
inductive PeakOrder
  | ascending
  | byCount
deriving DecidableEq, Repr

/-- One sync word a framer recognises, with the byte it stands for and whether it counts as an A1
(R6 `M2FM_SYNC`, R203 `SYNCS`). -/
structure SyncEntry where
  word : Half
  byte : Byte
  isA1 : Bool
deriving DecidableEq, Repr

/-- The implementation parameters of R6. A run of the machine never changes them (log entry 1). -/
structure Params where
  /-- NBINS: bins held by the bin memory. -/
  nbins : Nat
  /-- FLUX_DEPTH: samples the flux memory holds. -/
  fluxDepth : Nat
  /-- MAXPEAKS: entries of the peak table. -/
  maxPeaks : Nat
  /-- M2FM_SYNC, in the order the entries are tried (R231). -/
  m2fmSync : List SyncEntry
  /-- PEAK_ORDER. -/
  peakOrder : PeakOrder
  /-- ID_VALUE. -/
  idValue : Word
deriving DecidableEq, Repr

/-- The defaults of R6: the values this spec's hardware takes. -/
def Params.default : Params where
  nbins := 1024
  fluxDepth := 65536
  maxPeaks := 16
  m2fmSync := [⟨0x4489, 0xA1, true⟩, ⟨0x5224, 0xC2, false⟩]
  peakOrder := .ascending
  idValue := 0x55465445

/-- FREE VALUE. What an entry of the flux memory that no FLUX.PUSH has written holds: R56 and R482
leave it unspecified (log entry 4). -/
opaque fluxUnwritten : Nat → Word

/-- BASE, the block's place in a system address map (R107): open, and no definition of the model
reads it (log entry 7). -/
opaque base : Nat

end Sys2Proof.Config
end

