-- ==== Sys2Proof/Machine/State.lean ====
section
/-! DEFINITION. The state of UFT-ENC (spec/10_state.md R30 to R62) as plain data, its reset
(spec/70_reset_and_hazards.md R481), and the reasons a step can stop. -/

namespace Sys2Proof.Machine

open Sys2Proof.Config

/-! ### What the outside world does -/

/-- One access of the host's bus (spec/20_memory.md R100, R103): `size` bytes at byte offset `off`. -/
inductive BusAccess
  | read (off : BitVec 16) (size : Nat)
  | write (off : BitVec 16) (size : Nat) (v : Word)
deriving DecidableEq, Repr

/-- What the host and the platform can do to the block (R30, R480). -/
inductive HostEvent
  /-- One bus access of the host. -/
  | access (a : BusAccess)
  /-- The platform applies hardware reset (R480). -/
  | reset
  /-- A bus access issued while hardware reset is applied: R480 gives it no meaning. -/
  | accessInReset (a : BusAccess)
deriving DecidableEq, Repr

/-! ### The units -/

/-- The framer state of R49 (MFM) and R50 (M2FM). -/
structure Framer where
  sr : BitVec 16
  phase : BitVec 4
  a1cnt : BitVec 2
  locked : Bool
  prev : Bool
  zrun : BitVec 4
  err : Bool
deriving DecidableEq, Repr

/-- The FM framer state of R51. -/
structure FmFramer where
  sr : BitVec 16
  phase : BitVec 4
  locked : Bool
deriving DecidableEq, Repr

/-- The mode of the GCR-CBM framer (R52); the value 3 is never held. -/
inductive Gcr5Mode
  | hunt
  | sync
  | data
deriving DecidableEq, Repr

/-- The GCR-CBM framer state of R52. -/
structure Gcr5Framer where
  acc : BitVec 10
  cnt : BitVec 4
  mode : Gcr5Mode
  ones : BitVec 8
deriving DecidableEq, Repr

/-- The states of the Apple sector-prologue FSM (R54); the values 5 to 7 are never held. -/
inductive AproState
  | idle
  | d5Seen
  | aaSeen
  | deSeen
  | deAa
deriving DecidableEq, Repr

/-- The encoders' previous bits (R55). -/
structure Encoders where
  mfmprev : Bool
  m2prevd : Bool
  m2prevc : Bool
  amiprev : Bool
deriving DecidableEq, Repr

/-- One entry of the peak table (R60). -/
structure PeakEntry where
  pos : BitVec 32
  cnt : BitVec 32
  lbl : BitVec 8
deriving DecidableEq, Repr

/-- ENC_KIND (R61); the value 3 is never held. -/
inductive EncKind
  | auto
  | mfm
  | fm
deriving DecidableEq, Repr

/-- ENC_RATE (R61); the value 3 is never held. -/
inductive EncRate
  | unknown
  | mfmDd250k
  | mfmHd500k
deriving DecidableEq, Repr

/-- The EncodingReading registers (R61). -/
structure EncodingReading where
  kind : EncKind
  bitCellNs : BitVec 32
  rate : EncRate
deriving DecidableEq, Repr

/-! ### The internal memories -/

/-- The indices of a memory's listed entries rise strictly. -/
abbrev Rising {α : Type} (m : List (Nat × α)) : Prop := (m.map Prod.fst).Pairwise (· < ·)

/-- No listed entry holds the value 0, which is what an unlisted bin reads as. -/
abbrev NoZero {w : Nat} (m : List (Nat × BitVec w)) : Prop := ∀ e ∈ m, e.2 ≠ 0

/-- The internal memories (R56, R57, R101), each a list of (index, entry) pairs. An unlisted entry of
the flux memory holds a free value (`Config.fluxUnwritten`); an unlisted bin holds 0. -/
structure Memory where
  flux : List (Nat × BitVec 32)
  binCnt : List (Nat × BitVec 32)
  binSum : List (Nat × BitVec 64)
deriving DecidableEq, Repr

/-- The canonical form of the memories: rising indices, and no bin listed with the value an unlisted
one reads as. -/
abbrev Memory.wf (m : Memory) : Prop :=
  Rising m.flux ∧ Rising m.binCnt ∧ NoZero m.binCnt ∧ Rising m.binSum ∧ NoZero m.binSum

/-! ### The state -/

/-- Every state element of R31 to R61, and the model's own fields `params`, `pending`, `lastRead`. -/
structure State where
  /-- MODEL'S OWN: the implementation parameters (00_scope.md R6), never changed by a step. -/
  params : Params
  /-- STATUS (R32). -/
  status : BitVec 7
  /-- ERRCODE (R33). -/
  errcode : BitVec 4
  /-- IRQ_EN (R34). -/
  irqEn : BitVec 7
  /-- EVT (R36). -/
  evt : BitVec 8
  /-- DIN0 (R37). -/
  din0 : BitVec 32
  /-- DIN1 (R37). -/
  din1 : BitVec 32
  /-- DOUT0 (R38). -/
  dout0 : BitVec 32
  /-- DOUT1 (R38). -/
  dout1 : BitVec 32
  /-- HIST_W (R40). -/
  histW : BitVec 16
  /-- PEAK_THR (R41). -/
  peakThr : BitVec 8
  /-- PEAK_SEP (R42). -/
  peakSep : BitVec 16
  /-- CELL_NS (R43). -/
  cellNs : BitVec 16
  /-- CRC16_INITV (R44). -/
  crc16Initv : BitVec 16
  /-- S.crc16 (R45). -/
  crc16 : BitVec 16
  /-- S.crc32 (R46). -/
  crc32 : BitVec 32
  /-- S.crc32be (R47). -/
  crc32be : BitVec 32
  /-- S.amiacc (R48). -/
  amiacc : BitVec 32
  /-- S.mfm (R49). -/
  mfm : Framer
  /-- S.m2 (R50). -/
  m2 : Framer
  /-- S.fm (R51). -/
  fm : FmFramer
  /-- S.g5 (R52). -/
  g5 : Gcr5Framer
  /-- S.aplsr (R53). -/
  aplsr : BitVec 8
  /-- S.apro (R54). -/
  apro : AproState
  /-- S.mfmprev, S.m2prevd, S.m2prevc, S.amiprev (R55). -/
  enc : Encoders
  /-- FluxMem, BinCnt, BinSum (R56, R57). -/
  mem : Memory
  /-- S.fluxcnt (R56). -/
  fluxcnt : BitVec 32
  /-- HIST_MIN (R58). -/
  histMin : BitVec 32
  /-- HIST_NB (R58). -/
  histNb : BitVec 11
  /-- HIST_OOR (R58). -/
  histOor : BitVec 32
  /-- hist_valid (R59). -/
  histValid : Bool
  /-- peaks_valid (R59). -/
  peaksValid : Bool
  /-- class_valid (R59). -/
  classValid : Bool
  /-- PEAK_N (R60). -/
  peakN : BitVec 5
  /-- PEAK_POS, PEAK_CNT, PEAK_LBL (R60). -/
  peaks : Vector PeakEntry 16
  /-- ENC_KIND, BIT_CELL_NS, ENC_RATE (R61). -/
  reading : EncodingReading
  /-- MODEL'S OWN: what the host and the platform will do next, oldest first (log entry 2). There is one
  such list, since there is one host with one sequence of accesses (R109, R452, R463). -/
  pending : List HostEvent
  /-- MODEL'S OWN: the data the access just served returned, if it was a read (log entry 3). -/
  lastRead : Option (BitVec 32)
deriving DecidableEq, Repr

/-! ### Reset values (70_reset_and_hazards.md R481) -/

/-- An unlocked MFM or M2FM framer: every field 0. -/
def Framer.cleared : Framer := ⟨0, 0, 0, false, false, 0, false⟩

/-- An unlocked FM framer: every field 0. -/
def FmFramer.cleared : FmFramer := ⟨0, 0, false⟩

/-- A GCR-CBM framer in HUNT: every field 0. -/
def Gcr5Framer.cleared : Gcr5Framer := ⟨0, 0, .hunt, 0⟩

/-- Encoders whose previous bits are 0. -/
def Encoders.cleared : Encoders := ⟨false, false, false, false⟩

/-- An entry of the peak table that reads 0. -/
def PeakEntry.zero : PeakEntry := ⟨0, 0, 0⟩

/-- A peak table that reads 0. -/
def noPeaks : Vector PeakEntry 16 := Vector.replicate 16 PeakEntry.zero

/-- A reading of AUTO, 0, UNKNOWN. -/
def EncodingReading.cleared : EncodingReading := ⟨.auto, 0, .unknown⟩

/-- The reset state of R481 of a block with parameters `p`. -/
def resetState (p : Params) : State where
  params := p
  status := 0
  errcode := 0
  irqEn := 0
  evt := 0
  din0 := 0
  din1 := 0
  dout0 := 0
  dout1 := 0
  histW := 10
  peakThr := 5
  peakSep := 500
  cellNs := 0
  crc16Initv := 0xFFFF
  crc16 := 0xFFFF
  crc32 := 0xFFFFFFFF
  crc32be := 0xFFFFFFFF
  amiacc := 0
  mfm := .cleared
  m2 := .cleared
  fm := .cleared
  g5 := .cleared
  aplsr := 0
  apro := .idle
  enc := .cleared
  mem := ⟨[], [], []⟩
  fluxcnt := 0
  histMin := 0
  histNb := 0
  histOor := 0
  histValid := false
  peaksValid := false
  classValid := false
  peakN := 0
  peaks := noPeaks
  reading := .cleared
  pending := []
  lastRead := none

/-- The machine right after reset, with the default parameters of R6. -/
def State.reset : State := resetState Params.default

/-! ### Why a step can stop -/

/-- A step of this block never ends in a fault: a rejected command (R441) and a faulting bus access
(R443) are next states that record the error. -/
inductive Fault
deriving DecidableEq, Repr

/-- What the model gives no meaning to. -/
inductive Refusal
  /-- Raised by no meaning: an arm of `exec` without one would answer it. Safe: the step stops. -/
  | notModelled (mnemonic : String)
  /-- Raised by the step for a bus access issued while hardware reset is applied, which R480 does not
  define ("a model must not issue one"). Safe: nothing can be proved of what follows. -/
  | accessDuringReset
deriving DecidableEq, Repr

/-- The outcome of a step or of a meaning. -/
abbrev Result := Host.Outcome State Fault Refusal

end Sys2Proof.Machine
end

