-- ==== Sys2Proof/Machine/Operands.lean ====
section
/-! DEFINITION. Operand forms: the implicit register operands (spec/30_encoding.md R133), the widths of
results (spec/20_memory.md R106), and the cell words of spec/00_scope.md R12 and
spec/40_mfm_fm_m2fm.md R200. -/

namespace Sys2Proof.Machine

/-- The first register operand: DIN0 as it stands when the CMD write arrives (R133). -/
def operand0 (s : State) : Word := s.din0

/-- The second register operand, DIN1 (R133). -/
def operand1 (s : State) : Word := s.din1

/-- `zext_32(v)` (R9): a result's upper bits are 0 (R106). -/
def zext32 {w : Nat} (v : BitVec w) : Word := v.setWidth 32

/-- DOUT0 after a command that writes it only when a byte completes. -/
def byteOut (out : Option Byte) (old : Word) : Word :=
  match out with
  | some v => zext32 v
  | none => old

/-- A shift register takes the next cell as its bit 0: `((sr << 1) | b) mod 2^w`. -/
def pushCell {w : Nat} (sr : BitVec w) (b : Bool) : BitVec w :=
  (sr <<< 1) ||| (BitVec.ofBool b).setWidth w

/-- The cells of an N-cell word, first in time first (R12: the first cell is bit N-1). -/
def cellsOf {w : Nat} (v : BitVec w) : List Bool :=
  (List.range w).map fun p => v.getLsbD (w - 1 - p)

/-- Bit `i` of a word, as a one-bit field. -/
def bitOf {w : Nat} (v : BitVec w) (i : Nat) : BitVec 1 := v.extractLsb' i 1

/-- `dat(w)` (R200): the data byte of a 16-cell word, at the odd cell positions. -/
def dat (w : Half) : Byte :=
  bitOf w 14 ++ bitOf w 12 ++ bitOf w 10 ++ bitOf w 8 ++ bitOf w 6 ++ bitOf w 4 ++ bitOf w 2 ++ bitOf w 0

/-- `clk(w)` (R200): the clock byte of a 16-cell word, at the even cell positions. -/
def clk (w : Half) : Byte :=
  bitOf w 15 ++ bitOf w 13 ++ bitOf w 11 ++ bitOf w 9 ++ bitOf w 7 ++ bitOf w 5 ++ bitOf w 3 ++ bitOf w 1

/-- `il(c, d)` (R200): the 16-cell word with clock byte `c` and data byte `d`. -/
def il (c d : Byte) : Half :=
  bitOf c 7 ++ bitOf d 7 ++ bitOf c 6 ++ bitOf d 6 ++ bitOf c 5 ++ bitOf d 5 ++ bitOf c 4 ++ bitOf d 4 ++
  bitOf c 3 ++ bitOf d 3 ++ bitOf c 2 ++ bitOf d 2 ++ bitOf c 1 ++ bitOf d 1 ++ bitOf c 0 ++ bitOf d 0

end Sys2Proof.Machine
end

