-- ==== Sys2Proof/Machine/Flags.lean ====
section
/-! DEFINITION. The event flags of EVT (spec/10_state.md R36) and the codes and STATUS bits of errors
(R32, spec/60_exceptions.md R440). -/

namespace Sys2Proof.Machine

/-- EVT.AM_KIND (R36). -/
inductive AmKind
  | notAm
  | idam
  | dam
  | ddam
deriving DecidableEq, Repr

/-- The code of EVT[3:2]. -/
def AmKind.code : AmKind → BitVec 2
  | .notAm => 0
  | .idam => 1
  | .dam => 2
  | .ddam => 3

/-- EVT.MARK (R36). -/
inductive Mark
  | noMark
  | addrMark
  | dataMark
  | epilogue
deriving DecidableEq, Repr

/-- The code of EVT[6:5]. -/
def Mark.code : Mark → BitVec 2
  | .noMark => 0
  | .addrMark => 1
  | .dataMark => 2
  | .epilogue => 3

/-- The fields a command emits (00_scope.md R11): a field not emitted is 0. -/
structure Events where
  byteReady : Bool := false
  syncDet : Bool := false
  amKind : AmKind := .notAm
  decErr : Bool := false
  mark : Mark := .noMark
  rejected : Bool := false
deriving DecidableEq, Repr

/-- EVT as its fields make it up: bit 7 REJECTED, 6:5 MARK, 4 DEC_ERR, 3:2 AM_KIND, 1 SYNC_DET,
0 BYTE_READY (R36). -/
def Events.pack (e : Events) : BitVec 8 :=
  BitVec.ofBool e.rejected ++ e.mark.code ++ BitVec.ofBool e.decErr ++ e.amKind.code ++
    BitVec.ofBool e.syncDet ++ BitVec.ofBool e.byteReady

/-- The error codes of R440 (code 0 is no error). -/
inductive ErrorCode
  | illegalCmd
  | badOperand
  | seqErr
  | fluxFull
  | busErr
deriving DecidableEq, Repr

/-- The code as ERRCODE holds it (R440). -/
def ErrorCode.code : ErrorCode → BitVec 4
  | .illegalCmd => 1
  | .badOperand => 2
  | .seqErr => 3
  | .fluxFull => 4
  | .busErr => 5

/-- The STATUS bit of an error code: `1 << (code - 1)` (R441). -/
def ErrorCode.statusBit (c : ErrorCode) : BitVec 7 := 1#7 <<< (c.code.toNat - 1)

/-- STATUS.DEC_ERR, bit 5 (R32). -/
def statusDecErr : BitVec 7 := 0x20

/-- STATUS.HIST_OOR, bit 6 (R32). -/
def statusHistOor : BitVec 7 := 0x40

end Sys2Proof.Machine
end

