-- ==== Sys2Proof/Machine/Ops.lean ====
section
/-! DEFINITION. The operations every meaning shares: the internal memories (spec/10_state.md R56, R57),
the start and the events of a command (R36), and the error report (spec/60_exceptions.md R441, R443),
which is all this block has in place of an exception (R447, R448: no trap entry, no trap return). -/

namespace Sys2Proof.Machine

/-! ### Sparse memories -/

/-- The listed entry at an index, if there is one. -/
def cellFind {α : Type} : List (Nat × α) → Nat → Option α
  | [], _ => none
  | (j, v) :: m, i => if j = i then some v else cellFind m i

/-- List `v` at index `i`, in place of what was listed there. -/
def cellSet {α : Type} : List (Nat × α) → Nat → α → List (Nat × α)
  | [], i, v => [(i, v)]
  | (j, u) :: m, i, v =>
    if i < j then (i, v) :: (j, u) :: m
    else if i = j then (i, v) :: m
    else (j, u) :: cellSet m i v

/-- Take index `i` off the list. -/
def cellErase {α : Type} : List (Nat × α) → Nat → List (Nat × α)
  | [], _ => []
  | (j, u) :: m, i => if i = j then m else (j, u) :: cellErase m i

/-- A bin: an unlisted one holds 0 (R57). -/
def binRead {w : Nat} (m : List (Nat × BitVec w)) (i : Nat) : BitVec w := (cellFind m i).getD 0

/-- Write a bin, keeping the list free of zeros. -/
def binWrite {w : Nat} (m : List (Nat × BitVec w)) (i : Nat) (v : BitVec w) : List (Nat × BitVec w) :=
  if v = 0 then cellErase m i else cellSet m i v

/-- `FluxRead(i)` (00_scope.md R11): an entry nothing has written holds a free value (R56, R482). -/
def fluxRead (m : Memory) (i : Nat) : BitVec 32 := (cellFind m.flux i).getD (Config.fluxUnwritten i)

/-- `FluxWrite(i, v)` (R11). -/
def fluxWrite (m : Memory) (i : Nat) (v : BitVec 32) : Memory := { m with flux := cellSet m.flux i v }

/-- `BinCnt[i]` (R11). -/
def binCntRead (m : Memory) (i : Nat) : BitVec 32 := binRead m.binCnt i

/-- `BinSum[i]` (R11). -/
def binSumRead (m : Memory) (i : Nat) : BitVec 64 := binRead m.binSum i

/-- Every bin of both halves of the bin memory set to 0. -/
def binsClear (m : Memory) : Memory := { m with binCnt := [], binSum := [] }

/-! ### The course of a command -/

/-- Every command first sets EVT to 0 (R36); all that a command without events does to it. -/
def clearEvt (s : State) : State := { s with evt := 0 }

/-- `emit(...)` (R11): EVT holds exactly the fields emitted; DEC_ERR also sets STATUS.DEC_ERR (R444). -/
def emit (e : Events) (s : State) : State :=
  { s with evt := e.pack, status := if e.decErr then s.status ||| statusDecErr else s.status }

/-- `raise Reject(code)` (R441): EVT is REJECTED alone, the code's STATUS bit is set, ERRCODE holds
the code, and nothing else changes. -/
def reject (c : ErrorCode) (s : State) : State :=
  { s with evt := 0x80, status := s.status ||| c.statusBit, errcode := c.code }

/-- A bus fault (R443): STATUS.BUS_ERR and ERRCODE, and nothing else. -/
def busFault (s : State) : State :=
  { s with status := s.status ||| ErrorCode.busErr.statusBit, errcode := ErrorCode.busErr.code }

/-- The code a word that is no command is rejected with (R442 items 1 to 3). -/
def rejectCode : DecodeError → ErrorCode
  | .illegalOpc => .illegalCmd
  | .illegalSel => .illegalCmd
  | .immTooWide => .badOperand

/-- The interrupt output (R62, R450): a function of the state. It is one line, and no source has another
one or is delegated elsewhere (R451, R452). -/
def irq (s : State) : Bool := (s.status &&& s.irqEn) != 0

end Sys2Proof.Machine
end

