-- ==== Sys2Proof/Machine/Amiga.lean ====
section
/-! DEFINITION. Amiga MFM (spec/43_amiga_mfm.md R330 to R337). -/

namespace Sys2Proof.Machine

/-- The mask M of R330: the even bit positions. -/
def amiMask : Word := 0x55555555

/-- `odd(D)` (R330). -/
def oddHalf (d : Word) : Word := (d >>> 1) &&& amiMask

/-- `even(D)` (R330). -/
def evenHalf (d : Word) : Word := d &&& amiMask

/-- One turn of `mfm32`'s loop (R331): clock cell 2k+1 is 1 iff the data cells before and after it
are 0; `p` is the last cell written before the word. -/
def mfm32Clock (x : Word) (p : Bool) (w : Word) (k : Nat) : Word :=
  let hi := if k = 15 then p else x.getLsbD (2 * k + 2)
  let lo := x.getLsbD (2 * k)
  if !hi && !lo then w ||| (1#32 <<< (2 * k + 1)) else w

/-- `mfm32(x, p)` (R331): the 32-cell word and its last cell. -/
def mfm32 (x : Word) (p : Bool) : Word × Bool :=
  let w := (List.range 16).foldl (mfm32Clock x p) x
  (w, w.getLsbD 0)

/-- AMI.ENC.LONG (R332). -/
def execAmiEncLong (s : State) : Result :=
  let d := operand0 s
  let o := mfm32 (oddHalf d) s.enc.amiprev
  let e := mfm32 (evenHalf d) o.2
  .next { clearEvt s with dout0 := o.1, dout1 := e.1, enc := { s.enc with amiprev := e.2 } }

/-- AMI.ENC.HALF half (R333). -/
def execAmiEncHalf (half : AmiHalf) (s : State) : Result :=
  let x := match half with
    | .odd => oddHalf (operand0 s)
    | .even => evenHalf (operand0 s)
  let r := mfm32 x s.enc.amiprev
  .next { clearEvt s with dout0 := r.1, enc := { s.enc with amiprev := r.2 } }

/-- The long of two encoded halves (R334); the clock cells are discarded. -/
def amiJoin (o e : Word) : Word := ((o &&& amiMask) <<< 1) ||| (e &&& amiMask)

/-- AMI.DEC.LONG (R334). -/
def execAmiDecLong (s : State) : Result :=
  .next { clearEvt s with dout0 := amiJoin (operand0 s) (operand1 s) }

/-- AMI.ENC.PREV b (R335). -/
def execAmiEncPrev (b : Bool) (s : State) : Result :=
  .next { clearEvt s with enc := { s.enc with amiprev := b } }

/-- AMI.CSUM.CLR (R336). -/
def execAmiCsumClr (s : State) : Result := .next { clearEvt s with amiacc := 0 }

/-- AMI.CSUM.ADD (R337). -/
def execAmiCsumAdd (s : State) : Result :=
  let acc' := s.amiacc ^^^ operand0 s
  .next { clearEvt s with amiacc := acc', dout0 := acc' &&& amiMask }

end Sys2Proof.Machine
end

