-- ==== Sys2Proof/Machine/Control.lean ====
section
/-! DEFINITION. The control commands (spec/46_control.md) and the clearing of the analyser they share
with FLUX.CLR (spec/45_flux_analyser.md R380). -/

namespace Sys2Proof.Machine

/-- The effect of FLUX.CLR on the analyser (R380): the flux memory's entries stay, unreadable. -/
def analyserClear (s : State) : State :=
  { s with
    fluxcnt := 0
    mem := binsClear s.mem
    histMin := 0
    histNb := 0
    histOor := 0
    peakN := 0
    peaks := noPeaks
    reading := .cleared
    histValid := false
    peaksValid := false
    classValid := false }

/-- SRST mask bit 4 (R431): the Apple framer and the prologue FSM. -/
def appleClear (s : State) : State := { s with aplsr := 0, apro := .idle }

/-- SRST mask bit 6 (R431): the CRC registers, CRC16 from the current CRC16_INITV, and the checksum. -/
def crcClear (s : State) : State :=
  { s with crc16 := s.crc16Initv, crc32 := 0xFFFFFFFF, crc32be := 0xFFFFFFFF, amiacc := 0 }

/-- One line of R431's table: applied when its mask bit is 1. -/
def srstLine (mask : BitVec 8) (bit : Nat) (f : State → State) (s : State) : State :=
  if mask.getLsbD bit then f s else s

/-- The lines of R431's table; they touch disjoint state, so their order does not matter. -/
def softReset (mask : BitVec 8) (s : State) : State :=
  srstLine mask 7 analyserClear <|
  srstLine mask 6 crcClear <|
  srstLine mask 5 (fun s => { s with enc := .cleared }) <|
  srstLine mask 4 appleClear <|
  srstLine mask 3 (fun s => { s with g5 := .cleared }) <|
  srstLine mask 2 (fun s => { s with m2 := .cleared }) <|
  srstLine mask 1 (fun s => { s with fm := .cleared }) <|
  srstLine mask 0 (fun s => { s with mfm := .cleared }) s

/-- NOP (R430). -/
def execNop (s : State) : Result := .next (clearEvt s)

/-- SRST mask (R431). -/
def execSrst (mask : BitVec 8) (s : State) : Result := .next (softReset mask (clearEvt s))

end Sys2Proof.Machine
end

