-- ==== Sys2Proof/Machine/Crc.lean ====
section
/-! DEFINITION. The CRC generators (spec/44_crc.md R350 to R362). -/

namespace Sys2Proof.Machine

/-- One turn of `crc16_byte`'s loop (R350). -/
def crc16Bit (s : BitVec 16) : BitVec 16 := if s.getLsbD 15 then (s <<< 1) ^^^ 0x1021 else s <<< 1

/-- `crc16_byte(s, b)` (R350). -/
def crc16Byte (s : BitVec 16) (b : Byte) : BitVec 16 := crc16Bit^[8] (s ^^^ (b.setWidth 16 <<< 8))

/-- One turn of `crc32_byte`'s loop (R355). -/
def crc32Bit (s : Word) : Word := if s.getLsbD 0 then (s >>> 1) ^^^ 0xEDB88320 else s >>> 1

/-- `crc32_byte(s, b)` (R355). -/
def crc32Byte (s : Word) (b : Byte) : Word := crc32Bit^[8] (s ^^^ b.setWidth 32)

/-- One turn of `crc32be_byte`'s loop (R359). -/
def crc32beBit (s : Word) : Word := if s.getLsbD 31 then (s <<< 1) ^^^ 0x04C11DB7 else s <<< 1

/-- `crc32be_byte(s, b)` (R359). -/
def crc32beByte (s : Word) (b : Byte) : Word := crc32beBit^[8] (s ^^^ (b.setWidth 32 <<< 24))

/-- CRC16.INIT (R352). -/
def execCrc16Init (s : State) : Result := .next { clearEvt s with crc16 := s.crc16Initv }

/-- CRC16.LOAD v (R353). -/
def execCrc16Load (v : BitVec 16) (s : State) : Result := .next { clearEvt s with crc16 := v }

/-- CRC16.BYTE b (R354). -/
def execCrc16Byte (b : Byte) (s : State) : Result :=
  let s' := crc16Byte s.crc16 b
  .next { clearEvt s with crc16 := s', dout0 := zext32 s' }

/-- CRC32.INIT (R356). -/
def execCrc32Init (s : State) : Result := .next { clearEvt s with crc32 := 0xFFFFFFFF }

/-- CRC32.LOAD (R357). -/
def execCrc32Load (s : State) : Result := .next { clearEvt s with crc32 := operand0 s }

/-- CRC32.BYTE b (R358): DOUT0 is the raw register, DOUT1 the finished CRC. -/
def execCrc32Byte (b : Byte) (s : State) : Result :=
  let s' := crc32Byte s.crc32 b
  .next { clearEvt s with crc32 := s', dout0 := s', dout1 := s' ^^^ 0xFFFFFFFF }

/-- CRC32BE.INIT (R360). -/
def execCrc32beInit (s : State) : Result := .next { clearEvt s with crc32be := 0xFFFFFFFF }

/-- CRC32BE.LOAD (R361). -/
def execCrc32beLoad (s : State) : Result := .next { clearEvt s with crc32be := operand0 s }

/-- CRC32BE.BYTE b (R362). -/
def execCrc32beByte (b : Byte) (s : State) : Result :=
  let s' := crc32beByte s.crc32be b
  .next { clearEvt s with crc32be := s', dout0 := s' }

end Sys2Proof.Machine
end

