-- ==== Sys2Proof/Machine/Flux.lean ====
section
/-! DEFINITION. The flux analyser (spec/45_flux_analyser.md R380 to R390). Its arithmetic is on
naturals, as 00_scope.md R8 has it, and a result is narrowed where a register takes it. -/

namespace Sys2Proof.Machine

open Sys2Proof.Config

/-! ### Histogram (R382) -/

/-- The samples in the flux memory, in push order. -/
def fluxSamples (s : State) : List Nat :=
  (List.range s.fluxcnt.toNat).map fun j => (fluxRead s.mem j).toNat

/-- The least sample of a non-empty list. -/
def leastSample (l : List Nat) : Nat := l.tail.foldl min (l.headD 0)

/-- The greatest sample. -/
def greatestSample (l : List Nat) : Nat := l.foldl max 0

/-- The bins and the out-of-range count while HIST.BUILD runs. -/
structure Bins where
  cnt : List (Nat × BitVec 32)
  sum : List (Nat × BitVec 64)
  oor : Nat
deriving DecidableEq, Repr

/-- One turn of HIST.BUILD's loop: count the sample `v` in its bin, or out of range. -/
def binSample (nbins w mn : Nat) (b : Bins) (v : Nat) : Bins :=
  let i := (v - mn) / w
  if i < nbins then
    { b with
      cnt := binWrite b.cnt i (binRead b.cnt i + 1)
      sum := binWrite b.sum i (binRead b.sum i + BitVec.ofNat 64 v) }
  else { b with oor := b.oor + 1 }

/-- All samples binned, from empty bins. -/
def binSamples (nbins w mn : Nat) (l : List Nat) : Bins :=
  l.foldl (binSample nbins w mn) ⟨[], [], 0⟩

/-- The number of bins in use: `min(NBINS, (mx - mn) div w + 1)`. -/
def binsInUse (nbins w mn mx : Nat) : Nat := min nbins ((mx - mn) / w + 1)

/-- The effect of an accepted HIST.BUILD with bin width `w`. -/
def histBuild (w : Nat) (s : State) : State :=
  let l := fluxSamples s
  let mn := leastSample l
  let b := binSamples s.params.nbins w mn l
  { clearEvt s with
    mem := { s.mem with binCnt := b.cnt, binSum := b.sum }
    histMin := BitVec.ofNat 32 mn
    histNb := BitVec.ofNat 11 (binsInUse s.params.nbins w mn (greatestSample l))
    histOor := BitVec.ofNat 32 b.oor
    histValid := true
    peaksValid := false
    classValid := false
    status := if 0 < b.oor then s.status ||| statusHistOor else s.status }

/-! ### Peaks (R384) -/

/-- `cnt(i)`: the count of a bin in use, 0 for every other index. -/
def cntAt (m : Memory) (nb i : Nat) : Nat := if i < nb then (binCntRead m i).toNat else 0

/-- `cnt(i-1)`, which is 0 for bin 0. -/
def cntLeft (m : Memory) (nb i : Nat) : Nat := if i = 0 then 0 else cntAt m nb (i - 1)

/-- The greatest count of a bin in use. -/
def gmax (m : Memory) (nb : Nat) : Nat := ((List.range nb).map (cntAt m nb)).foldl max 0

/-- Whether bin `i` is a candidate: a non-zero local maximum whose count exceeds `thr` percent of the
greatest count `g`. -/
def isCandidate (m : Memory) (nb thr g i : Nat) : Bool :=
  decide (0 < cntAt m nb i) && decide (cntLeft m nb i < cntAt m nb i) &&
  decide (cntAt m nb (i + 1) ≤ cntAt m nb i) && decide (thr * g < cntAt m nb i * 100)

/-- The candidates in the order PEAK_ORDER offers them; the sort is stable, so bins of one count stay
in ascending order. -/
def candidates (order : PeakOrder) (m : Memory) (nb thr : Nat) : List Nat :=
  let c := (List.range nb).filter (isCandidate m nb thr (gmax m nb))
  match order with
  | .ascending => c
  | .byCount => c.insertionSort fun i j => cntAt m nb j ≤ cntAt m nb i

/-- An accepted peak: its position and its window count. -/
structure Peak where
  pos : Nat
  cnt : Nat
deriving DecidableEq, Repr

/-- The window of bin `i`: bins `i-2` to `i+2`, clipped to those in use. -/
def window (nb i : Nat) : List Nat :=
  let lo := i - 2
  let hi := min (nb - 1) (i + 2)
  List.range' lo (hi + 1 - lo)

/-- The peak at bin `i`: the mean of the window's samples, rounded half up, and their number. -/
def peakAt (m : Memory) (nb i : Nat) : Peak :=
  let c := ((window nb i).map fun j => (binCntRead m j).toNat).sum
  let t := ((window nb i).map fun j => (binSumRead m j).toNat).sum
  ⟨(2 * t + c) / (2 * c), c⟩

/-- The distance of two positions. -/
def distance (a b : Nat) : Nat := max a b - min a b

/-- One turn of PEAK.FIND's loop: accept the peak if the table has room and every accepted one is at
least `sep` away. -/
def acceptPeak (maxPeaks sep : Nat) (acc : List Peak) (p : Peak) : List Peak :=
  if acc.length < maxPeaks ∧ ∀ q ∈ acc, sep ≤ distance p.pos q.pos then acc ++ [p] else acc

/-- The accepted peaks in ascending position. -/
def findPeaks (s : State) : List Peak :=
  let nb := s.histNb.toNat
  let cand := candidates s.params.peakOrder s.mem nb s.peakThr.toNat
  let acc := (cand.map (peakAt s.mem nb)).foldl (acceptPeak s.params.maxPeaks s.peakSep.toNat) []
  acc.insertionSort fun p q => p.pos ≤ q.pos

/-- The peak table of a list of peaks, without labels; entries beyond the list are 0. -/
def peakTable (l : List Peak) : Vector PeakEntry 16 :=
  Vector.ofFn fun k =>
    match l[k.val]? with
    | some p => ⟨BitVec.ofNat 32 p.pos, BitVec.ofNat 32 p.cnt, 0⟩
    | none => .zero

/-! ### Classification (R386) -/

/-- `PEAK_POS[k]` as a natural; 0 beyond the table. -/
def peakPos (s : State) (k : Nat) : Nat :=
  match s.peaks[k]? with
  | some e => e.pos.toNat
  | none => 0

/-- The label of a position (R388): half-T units, rounded half up, at most 255. -/
def peakLabel (p1 pos : Nat) : BitVec 8 := BitVec.ofNat 8 (min 255 ((4 * pos + p1) / (2 * p1)))

/-- The kind of `n` peaks whose three shortest are at `p1`, `p2`, `p3`. -/
def classKind (n p1 p2 p3 : Nat) : EncKind :=
  if 3 ≤ n ∧ 13 * p1 ≤ 10 * p2 ∧ 10 * p2 ≤ 17 * p1 ∧ 18 * p1 ≤ 10 * p3 ∧ 10 * p3 ≤ 22 * p1 then .mfm
  else if n = 2 ∧ 18 * p1 ≤ 10 * p2 ∧ 10 * p2 ≤ 22 * p1 then .fm
  else .auto

/-- The data rate named for a kind and its shortest peak. -/
def classRate (kind : EncKind) (p1 : Nat) : EncRate :=
  if kind = .mfm ∧ 1500 ≤ p1 ∧ p1 ≤ 2500 then .mfmHd500k
  else if kind = .mfm ∧ 3000 ≤ p1 ∧ p1 ≤ 5000 then .mfmDd250k
  else .unknown

/-- The peak table with every entry's label set to `f` of its index and position. -/
def relabel (f : Nat → BitVec 32 → BitVec 8 → BitVec 8) (t : Vector PeakEntry 16) :
    Vector PeakEntry 16 :=
  Vector.ofFn fun k => { t[k] with lbl := f k.val t[k].pos t[k].lbl }

/-- The effect of an accepted CLASSIFY. -/
def classifyPeaks (s : State) : State :=
  let n := s.peakN.toNat
  let p1 := peakPos s 0
  if n = 0 ∨ p1 = 0 then
    { clearEvt s with
      peaks := relabel (fun _ _ _ => 0) s.peaks
      reading := .cleared
      classValid := true }
  else
    let kind := classKind n p1 (peakPos s 1) (peakPos s 2)
    { clearEvt s with
      peaks := relabel (fun k pos old => if k < n then peakLabel p1 pos.toNat else old) s.peaks
      reading :=
        { kind := kind
          bitCellNs := if kind = .auto then 0 else BitVec.ofNat 32 p1
          rate := classRate kind p1 }
      classValid := true }

/-! ### Quantiser (R390) -/

/-- The number of cells of period `c` an interval `t` spans: the nearest whole number, halves rounded
up, at least 1. -/
def fluxCells (t c : Nat) : Nat := max 1 ((2 * t + c) / (2 * c))

/-! ### The commands -/

/-- FLUX.CLR (R380). -/
def execFluxClr (s : State) : Result := .next (analyserClear (clearEvt s))

/-- FLUX.PUSH (R381). -/
def execFluxPush (s : State) : Result :=
  if s.fluxcnt.toNat = s.params.fluxDepth then .next (reject .fluxFull s)
  else
    .next
      { clearEvt s with
        mem := fluxWrite s.mem s.fluxcnt.toNat (operand0 s)
        fluxcnt := s.fluxcnt + 1
        histValid := false
        peaksValid := false
        classValid := false }

/-- HIST.BUILD (R382). -/
def execHistBuild (s : State) : Result :=
  if s.histW = 0 then .next (reject .badOperand s)
  else if s.fluxcnt = 0 then .next (reject .seqErr s)
  else .next (histBuild s.histW.toNat s)

/-- PEAK.FIND (R384). -/
def execPeakFind (s : State) : Result :=
  if s.histValid then
    let acc := findPeaks s
    .next
      { clearEvt s with
        peakN := BitVec.ofNat 5 acc.length
        peaks := peakTable acc
        peaksValid := true
        classValid := false }
  else .next (reject .seqErr s)

/-- CLASSIFY (R386). -/
def execClassify (s : State) : Result :=
  if s.peaksValid then .next (classifyPeaks s) else .next (reject .seqErr s)

/-- FLUX.CELLS (R390). -/
def execFluxCells (s : State) : Result :=
  if s.cellNs = 0 then .next (reject .badOperand s)
  else
    .next { clearEvt s with dout0 := BitVec.ofNat 32 (fluxCells (operand0 s).toNat s.cellNs.toNat) }

end Sys2Proof.Machine
end

