-- ==== Sys2Proof/Machine/Mfm.lean ====
section
/-! DEFINITION. MFM (spec/40_mfm_fm_m2fm.md R200 to R208): the framer, shared with M2FM (R231), and the
encoder. -/

namespace Sys2Proof.Machine

open Sys2Proof.Config

/-- `SYNCS` of R203: the MFM sync words A1 and C2 (R201). -/
def mfmSyncs : List SyncEntry := [⟨0x4489, 0xA1, true⟩, ⟨0x5224, 0xC2, false⟩]

/-- `amkind(d)` (R202). -/
def amkind (d : Byte) : AmKind :=
  if d = 0xFE then .idam else if d = 0xFB then .dam else if d = 0xF8 then .ddam else .notAm

/-- What pushing one cell into a framer does: the framer after it, the byte that completes if one
does, and the events. -/
structure CellReport (σ : Type) where
  framer : σ
  out : Option Byte
  events : Events

/-- The length of the run of 0 cells after the cell `b`, saturating at 15 (R203 `zrun'`). -/
def zeroRun (zrun : BitVec 4) (b : Bool) : BitVec 4 :=
  if b then 0 else if zrun = 15 then 15 else zrun + 1

/-- R204: the cell `b` violates the run-length limits: a 1 next to a 1, or a 0 that makes the run of
0 cells `zmax` or longer. -/
def violation (zmax : Nat) (f : Framer) (b : Bool) : Bool :=
  (f.prev && b) || (!b && decide (zmax ≤ (zeroRun f.zrun b).toNat))

/-- The entry of `syncs` the framer recognises with shift register `sr'`: an A1 at any phase, another
sync only while unlocked or on the byte grid (R203, R209 item 3). -/
def syncMatch (syncs : List SyncEntry) (f : Framer) (sr' : BitVec 16) : Option SyncEntry :=
  syncs.find? fun e => e.word == sr' && (e.isA1 || !f.locked || f.phase == 15)

/-- `a1cnt` after a sync (R203): an A1 exactly 16 cells after an A1 counts on, up to 3; any other A1
is the first of a run; another sync clears the count. -/
def a1Count (f : Framer) (isA1 : Bool) : BitVec 2 :=
  if isA1 then
    if f.locked && f.phase == 15 && f.a1cnt != 0 then
      (if f.a1cnt = 3 then 3 else f.a1cnt + 1)
    else 1
  else 0

/-- The framer of R203 with its sync words and its `ZMAX` (R204): push one cell. -/
def framerStep (syncs : List SyncEntry) (zmax : Nat) (f : Framer) (b : Bool) : CellReport Framer :=
  let sr' := pushCell f.sr b
  let f' : Framer := { f with sr := sr', prev := b, zrun := zeroRun f.zrun b }
  match syncMatch syncs f sr' with
  | some e =>
    { framer := { f' with a1cnt := a1Count f e.isA1, locked := true, phase := 0, err := false }
      out := some e.byte
      events := { byteReady := true, syncDet := true } }
  | none =>
    if f.locked then
      let e := f.err || violation zmax f b
      if f.phase = 15 then
        { framer := { f' with a1cnt := 0, phase := 0, err := false }
          out := some (dat sr')
          events :=
            { byteReady := true
              amKind := if f.a1cnt = 3 then amkind (dat sr') else .notAm
              decErr := e } }
      else
        { framer := { f' with phase := f.phase + 1, err := e }, out := none, events := {} }
    else { framer := f', out := none, events := {} }

/-- The data bits of a byte, most significant first (R200). -/
def dataBits (d : Byte) : List Bool := cellsOf d

/-- One turn of `mfm_enc`'s loop (R205): the word so far and the previous data bit. -/
def mfmEncBit (st : Half × Bool) (d : Bool) : Half × Bool :=
  (pushCell (pushCell st.1 (!st.2 && !d)) d, d)

/-- `mfm_enc(d, p)` (R205): the cell word and the new previous bit. -/
def mfmEnc (d : Byte) (p : Bool) : Half × Bool := (dataBits d).foldl mfmEncBit (0, p)

/-- MFM.DEC.CELL b (R203), with `ZMAX = 4`. -/
def execMfmDecCell (b : Bool) (s : State) : Result :=
  let r := framerStep mfmSyncs 4 s.mfm b
  .next (emit r.events { s with mfm := r.framer, dout0 := byteOut r.out s.dout0 })

/-- MFM.ENC.BYTE d (R206). -/
def execMfmEncByte (d : Byte) (s : State) : Result :=
  let r := mfmEnc d s.enc.mfmprev
  .next { clearEvt s with dout0 := zext32 r.1, enc := { s.enc with mfmprev := r.2 } }

/-- MFM.ENC.SYNC kind (R207). -/
def execMfmEncSync (kind : SyncKind) (s : State) : Result :=
  match kind with
  | .a1 => .next { clearEvt s with dout0 := 0x00004489, enc := { s.enc with mfmprev := true } }
  | .c2 => .next { clearEvt s with dout0 := 0x00005224, enc := { s.enc with mfmprev := false } }

/-- MFM.ENC.PREV b (R208). -/
def execMfmEncPrev (b : Bool) (s : State) : Result :=
  .next { clearEvt s with enc := { s.enc with mfmprev := b } }

end Sys2Proof.Machine
end

