-- ==== Sys2Proof/Machine/Fm.lean ====
section
/-! DEFINITION. FM (spec/40_mfm_fm_m2fm.md R220 to R224): marks, framer and encoder. -/

namespace Sys2Proof.Machine

/-- One row of R220: the mark's cell word, its data byte and the AM_KIND reported. -/
structure FmMarkRow where
  word : Half
  byte : Byte
  amKind : AmKind
deriving DecidableEq, Repr

/-- The row of R220 for a mark. -/
def fmMarkRow : FmMark → FmMarkRow
  | .idam => ⟨0xF57E, 0xFE, .idam⟩
  | .dam => ⟨0xF56F, 0xFB, .dam⟩
  | .ddam => ⟨0xF56A, 0xF8, .ddam⟩
  | .iam => ⟨0xF77A, 0xFC, .notAm⟩

/-- `FMMARKS` (R220). -/
def fmMarks : List FmMarkRow := [.idam, .dam, .ddam, .iam].map fmMarkRow

/-- The FM framer of R221: push one cell. -/
def fmFramerStep (f : FmFramer) (b : Bool) : CellReport FmFramer :=
  let sr' := pushCell f.sr b
  match fmMarks.find? fun m => m.word == sr' with
  | some m =>
    { framer := ⟨sr', 0, true⟩
      out := some m.byte
      events := { byteReady := true, syncDet := true, amKind := m.amKind } }
  | none =>
    if f.locked then
      if f.phase = 15 then
        { framer := { f with sr := sr', phase := 0 }
          out := some (dat sr')
          events := { byteReady := true, decErr := clk sr' != 0xFF } }
      else { framer := { f with sr := sr', phase := f.phase + 1 }, out := none, events := {} }
    else { framer := { f with sr := sr' }, out := none, events := {} }

/-- `fm_enc(d)` (R222): every clock bit 1. -/
def fmEnc (d : Byte) : Half := il 0xFF d

/-- FM.DEC.CELL b (R221). -/
def execFmDecCell (b : Bool) (s : State) : Result :=
  let r := fmFramerStep s.fm b
  .next (emit r.events { s with fm := r.framer, dout0 := byteOut r.out s.dout0 })

/-- FM.ENC.BYTE d (R223). -/
def execFmEncByte (d : Byte) (s : State) : Result :=
  .next { clearEvt s with dout0 := zext32 (fmEnc d) }

/-- FM.ENC.MARK kind (R224). -/
def execFmEncMark (kind : FmMark) (s : State) : Result :=
  .next { clearEvt s with dout0 := zext32 (fmMarkRow kind).word }

end Sys2Proof.Machine
end

