-- ==== Sys2Proof/Machine/GcrApple.lean ====
section
/-! DEFINITION. GCR-Apple (spec/42_gcr_apple.md R290 to R299): tables, cell framer, prologue FSM. -/

namespace Sys2Proof.Machine

/-- `A62[0 .. 63]` (R290). -/
def a62Table : List Byte :=
  [0x96, 0x97, 0x9A, 0x9B, 0x9D, 0x9E, 0x9F, 0xA6, 0xA7, 0xAB, 0xAC, 0xAD, 0xAE, 0xAF, 0xB2, 0xB3] ++
  [0xB4, 0xB5, 0xB6, 0xB7, 0xB9, 0xBA, 0xBB, 0xBC, 0xBD, 0xBE, 0xBF, 0xCB, 0xCD, 0xCE, 0xCF, 0xD3] ++
  [0xD6, 0xD7, 0xD9, 0xDA, 0xDB, 0xDC, 0xDD, 0xDE, 0xDF, 0xE5, 0xE6, 0xE7, 0xE9, 0xEA, 0xEB, 0xEC] ++
  [0xED, 0xEE, 0xEF, 0xF2, 0xF3, 0xF4, 0xF5, 0xF6, 0xF7, 0xF9, 0xFA, 0xFB, 0xFC, 0xFD, 0xFE, 0xFF]

/-- `A53[0 .. 31]` (R291). -/
def a53Table : List Byte :=
  [0xAB, 0xAD, 0xAE, 0xAF, 0xB5, 0xB6, 0xB7, 0xBA, 0xBB, 0xBD, 0xBE, 0xBF, 0xD6, 0xD7, 0xDA, 0xDB] ++
  [0xDD, 0xDE, 0xDF, 0xEA, 0xEB, 0xED, 0xEE, 0xEF, 0xF5, 0xF6, 0xF7, 0xFA, 0xFB, 0xFD, 0xFE, 0xFF]

/-- `A62[v]`. -/
def a62Enc (v : BitVec 6) : Byte := a62Table.getD v.toNat 0

/-- `A53[v]`. -/
def a53Enc (v : BitVec 5) : Byte := a53Table.getD v.toNat 0

/-- The index of a disk byte in a table, if it has one (R293). -/
def diskByteIndex (table : List Byte) (x : Byte) : Option Nat := table.findIdx? (· == x)

/-- The decoding of a disk byte (R293, R295): its index, or 0 with DEC_ERR for a byte outside the
table. -/
def diskByteDecode (table : List Byte) (x : Byte) : Word × Bool :=
  match diskByteIndex table x with
  | some i => (BitVec.ofNat 32 i, false)
  | none => (0, true)

/-- The transition function `apro(s, x)` (R298): the next state and the mark; the first matching
line of its table wins. -/
def apro (s : AproState) (x : Byte) : AproState × Mark :=
  if x = 0xD5 then (.d5Seen, .noMark)
  else if s = .idle ∧ x = 0xDE then (.deSeen, .noMark)
  else if s = .d5Seen ∧ x = 0xAA then (.aaSeen, .noMark)
  else if s = .aaSeen ∧ x = 0x96 then (.idle, .addrMark)
  else if s = .aaSeen ∧ x = 0xAD then (.idle, .dataMark)
  else if s = .deSeen ∧ x = 0xAA then (.deAa, .noMark)
  else if s = .deAa ∧ x = 0xEB then (.idle, .epilogue)
  else (.idle, .noMark)

/-- A62.ENC v (R292). -/
def execA62Enc (v : BitVec 6) (s : State) : Result :=
  .next { clearEvt s with dout0 := zext32 (a62Enc v) }

/-- A62.DEC x (R293). -/
def execA62Dec (x : Byte) (s : State) : Result :=
  let r := diskByteDecode a62Table x
  .next (emit { decErr := r.2 } { s with dout0 := r.1 })

/-- A53.ENC v (R294). -/
def execA53Enc (v : BitVec 5) (s : State) : Result :=
  .next { clearEvt s with dout0 := zext32 (a53Enc v) }

/-- A53.DEC x (R295). -/
def execA53Dec (x : Byte) (s : State) : Result :=
  let r := diskByteDecode a53Table x
  .next (emit { decErr := r.2 } { s with dout0 := r.1 })

/-- APL.DEC.CELL b (R297): a byte completes when a 1 reaches bit 7. -/
def execAplDecCell (b : Bool) (s : State) : Result :=
  let sr' := pushCell s.aplsr b
  if sr'.getLsbD 7 then
    .next (emit { byteReady := true } { s with dout0 := zext32 sr', aplsr := 0 })
  else .next { clearEvt s with aplsr := sr' }

/-- APRO.STEP x (R299). -/
def execAproStep (x : Byte) (s : State) : Result :=
  let r := apro s.apro x
  .next (emit { mark := r.2 } { s with apro := r.1 })

end Sys2Proof.Machine
end

