-- ==== Sys2Proof/Machine/GcrCbm.lean ====
section
/-! DEFINITION. GCR-CBM (spec/41_gcr_cbm.md R260 to R267). -/

namespace Sys2Proof.Machine

/-- `GCR5ENC[0 .. 15]` (R260). -/
def gcr5EncTable : List (BitVec 5) :=
  [0x0A, 0x0B, 0x12, 0x13, 0x0E, 0x0F, 0x16, 0x17, 0x09, 0x19, 0x1A, 0x1B, 0x0D, 0x1D, 0x1E, 0x15]

/-- `GCR5DEC[0 .. 31]` (R261): bit 4 marks an invalid code. -/
def gcr5DecTable : List (BitVec 5) :=
  [0x10, 0x10, 0x10, 0x10, 0x10, 0x10, 0x10, 0x10, 0x10, 0x08, 0x00, 0x01, 0x10, 0x0C, 0x04, 0x05] ++
  [0x10, 0x10, 0x02, 0x03, 0x10, 0x0F, 0x06, 0x07, 0x10, 0x09, 0x0A, 0x0B, 0x10, 0x0D, 0x0E, 0x10]

/-- `GCR5ENC[n]`. -/
def gcr5Enc (n : BitVec 4) : BitVec 5 := gcr5EncTable.getD n.toNat 0

/-- `GCR5DEC[c]`. -/
def gcr5Dec (c : BitVec 5) : BitVec 5 := gcr5DecTable.getD c.toNat 0x10

/-- The 10-cell group of a byte, high nibble first (R264). -/
def gcr5EncByte (d : Byte) : BitVec 10 :=
  gcr5Enc (d.extractLsb' 4 4) ++ gcr5Enc (d.extractLsb' 0 4)

/-- `gcr5_word(c)` (R265): the byte of a 10-cell group and whether a half is invalid. -/
def gcr5Word (c : BitVec 10) : Byte × Bool :=
  let hi := gcr5Dec (c.extractLsb' 5 5)
  let lo := gcr5Dec (c.extractLsb' 0 5)
  (hi.extractLsb' 0 4 ++ lo.extractLsb' 0 4, hi.getLsbD 4 || lo.getLsbD 4)

/-- What pushing one cell into the GCR-CBM framer does: the byte and its raw group when one
completes. -/
structure Gcr5Report where
  framer : Gcr5Framer
  out : Option (Byte × BitVec 10)
  events : Events

/-- The length of the run of 1 cells after the cell `b`, saturating at 255 (R267 `ones'`). -/
def oneRun (ones : BitVec 8) (b : Bool) : BitVec 8 :=
  if b then (if ones = 255 then 255 else ones + 1) else 0

/-- The GCR-CBM framer of R267: push one cell. -/
def gcr5FramerStep (f : Gcr5Framer) (b : Bool) : Gcr5Report :=
  let ones' := oneRun f.ones b
  if b && decide (10 ≤ ones'.toNat) then
    { framer := ⟨0, 0, .sync, ones'⟩, out := none, events := { syncDet := f.mode != .sync } }
  else
    match f.mode with
    | .hunt => { framer := { f with ones := ones' }, out := none, events := {} }
    | .sync => { framer := ⟨0, 1, .data, ones'⟩, out := none, events := {} }
    | .data =>
      let acc' := pushCell f.acc b
      if f.cnt.toNat + 1 = 10 then
        let r := gcr5Word acc'
        { framer := ⟨0, 0, .data, ones'⟩
          out := some (r.1, acc')
          events := { byteReady := true, decErr := r.2 } }
      else { framer := ⟨acc', f.cnt + 1, .data, ones'⟩, out := none, events := {} }

/-- GCR5.ENC.NIB n (R262). -/
def execGcr5EncNib (n : BitVec 4) (s : State) : Result :=
  .next { clearEvt s with dout0 := zext32 (gcr5Enc n) }

/-- GCR5.DEC.CODE c (R263). -/
def execGcr5DecCode (c : BitVec 5) (s : State) : Result :=
  let r := gcr5Dec c
  .next (emit { decErr := r.getLsbD 4 } { s with dout0 := zext32 r })

/-- GCR5.ENC.BYTE d (R264). -/
def execGcr5EncByte (d : Byte) (s : State) : Result :=
  .next { clearEvt s with dout0 := zext32 (gcr5EncByte d) }

/-- GCR5.DEC.WORD c (R265). -/
def execGcr5DecWord (c : BitVec 10) (s : State) : Result :=
  let r := gcr5Word c
  .next (emit { decErr := r.2 } { s with dout0 := zext32 r.1 })

/-- GCR5.DEC.CELL b (R267). -/
def execGcr5DecCell (b : Bool) (s : State) : Result :=
  let r := gcr5FramerStep s.g5 b
  .next
    (emit r.events
      { s with
        g5 := r.framer
        dout0 := match r.out with
          | some (v, _) => zext32 v
          | none => s.dout0
        dout1 := match r.out with
          | some (_, g) => zext32 g
          | none => s.dout1 })

end Sys2Proof.Machine
end

