-- ==== Sys2Proof/Machine/M2fm.lean ====
section
/-! DEFINITION. M2FM (spec/40_mfm_fm_m2fm.md R230 to R234). -/

namespace Sys2Proof.Machine

/-- The loop state of `m2fm_enc` (R230): the word so far, the previous data bit, the previous clock. -/
structure M2fmLoop where
  word : Half
  pd : Bool
  pc : Bool
deriving DecidableEq, Repr

/-- One turn of `m2fm_enc`'s loop (R230). -/
def m2fmEncBit (st : M2fmLoop) (d : Bool) : M2fmLoop :=
  let c := !st.pd && !d && !st.pc
  ⟨pushCell (pushCell st.word c) d, d, c⟩

/-- `m2fm_enc(d, pd, pc)` (R230). -/
def m2fmEnc (d : Byte) (pd pc : Bool) : M2fmLoop := (dataBits d).foldl m2fmEncBit ⟨0, pd, pc⟩

/-- M2FM.DEC.CELL b (R231): the framer of R203 with the parameter M2FM_SYNC and `ZMAX = 5`. -/
def execM2fmDecCell (b : Bool) (s : State) : Result :=
  let r := framerStep s.params.m2fmSync 5 s.m2 b
  .next (emit r.events { s with m2 := r.framer, dout0 := byteOut r.out s.dout0 })

/-- M2FM.ENC.BYTE d (R233). -/
def execM2fmEncByte (d : Byte) (s : State) : Result :=
  let r := m2fmEnc d s.enc.m2prevd s.enc.m2prevc
  .next
    { clearEvt s with
      dout0 := zext32 r.word
      enc := { s.enc with m2prevd := r.pd, m2prevc := r.pc } }

/-- M2FM.ENC.PREV v (R234): bit 0 is the previous data bit, bit 1 the previous clock bit. -/
def execM2fmEncPrev (v : BitVec 2) (s : State) : Result :=
  .next
    { clearEvt s with enc := { s.enc with m2prevd := v.getLsbD 0, m2prevc := v.getLsbD 1 } }

end Sys2Proof.Machine
end

