-- ==== Sys2Proof/Machine/Dispatch.lean ====
section
/-! DEFINITION. The effect of an accepted command word (spec/30_encoding.md R135): one arm per instruction. -/

namespace Sys2Proof.Machine

def exec (i : Instr) (s : State) : Host.Outcome State Fault Refusal :=
  match i with
  | .nop => Sys2Proof.Machine.execNop s
  | .srst mask => Sys2Proof.Machine.execSrst mask s
  | .mfmDecCell b => Sys2Proof.Machine.execMfmDecCell b s
  | .mfmEncByte d => Sys2Proof.Machine.execMfmEncByte d s
  | .mfmEncSync kind => Sys2Proof.Machine.execMfmEncSync kind s
  | .mfmEncPrev b => Sys2Proof.Machine.execMfmEncPrev b s
  | .fmDecCell b => Sys2Proof.Machine.execFmDecCell b s
  | .fmEncByte d => Sys2Proof.Machine.execFmEncByte d s
  | .fmEncMark kind => Sys2Proof.Machine.execFmEncMark kind s
  | .m2fmDecCell b => Sys2Proof.Machine.execM2fmDecCell b s
  | .m2fmEncByte d => Sys2Proof.Machine.execM2fmEncByte d s
  | .m2fmEncPrev v => Sys2Proof.Machine.execM2fmEncPrev v s
  | .gcr5EncNib n => Sys2Proof.Machine.execGcr5EncNib n s
  | .gcr5DecCode c => Sys2Proof.Machine.execGcr5DecCode c s
  | .gcr5EncByte d => Sys2Proof.Machine.execGcr5EncByte d s
  | .gcr5DecWord c => Sys2Proof.Machine.execGcr5DecWord c s
  | .gcr5DecCell b => Sys2Proof.Machine.execGcr5DecCell b s
  | .a62Enc v => Sys2Proof.Machine.execA62Enc v s
  | .a62Dec x => Sys2Proof.Machine.execA62Dec x s
  | .a53Enc v => Sys2Proof.Machine.execA53Enc v s
  | .a53Dec x => Sys2Proof.Machine.execA53Dec x s
  | .aplDecCell b => Sys2Proof.Machine.execAplDecCell b s
  | .aproStep x => Sys2Proof.Machine.execAproStep x s
  | .amiEncLong => Sys2Proof.Machine.execAmiEncLong s
  | .amiEncHalf half => Sys2Proof.Machine.execAmiEncHalf half s
  | .amiDecLong => Sys2Proof.Machine.execAmiDecLong s
  | .amiEncPrev b => Sys2Proof.Machine.execAmiEncPrev b s
  | .amiCsumClr => Sys2Proof.Machine.execAmiCsumClr s
  | .amiCsumAdd => Sys2Proof.Machine.execAmiCsumAdd s
  | .crc16Init => Sys2Proof.Machine.execCrc16Init s
  | .crc16Load v => Sys2Proof.Machine.execCrc16Load v s
  | .crc16Byte b => Sys2Proof.Machine.execCrc16Byte b s
  | .crc32Init => Sys2Proof.Machine.execCrc32Init s
  | .crc32Load => Sys2Proof.Machine.execCrc32Load s
  | .crc32Byte b => Sys2Proof.Machine.execCrc32Byte b s
  | .crc32beInit => Sys2Proof.Machine.execCrc32beInit s
  | .crc32beLoad => Sys2Proof.Machine.execCrc32beLoad s
  | .crc32beByte b => Sys2Proof.Machine.execCrc32beByte b s
  | .fluxClr => Sys2Proof.Machine.execFluxClr s
  | .fluxPush => Sys2Proof.Machine.execFluxPush s
  | .histBuild => Sys2Proof.Machine.execHistBuild s
  | .peakFind => Sys2Proof.Machine.execPeakFind s
  | .classify => Sys2Proof.Machine.execClassify s
  | .fluxCells => Sys2Proof.Machine.execFluxCells s

end Sys2Proof.Machine
end

