-- ==== Sys2Proof/Machine/Registers.lean ====
section
/-! DEFINITION. The register map (spec/20_memory.md R100, spec/10_state.md R31 to R61): which register
stands at an offset, its access type, what it reads as, and what a write to it stores. -/

namespace Sys2Proof.Machine

/-- The host-visible registers. -/
inductive Reg
  | id | status | errcode | irqEn | cmd | din0 | din1 | dout0 | dout1 | evt
  | histW | peakThr | peakSep | cellNs | crc16Initv
  | crc16 | crc32 | crc32Out | crc32be | amiCsum
  | mfmFr | m2fmFr | fmFr | gcr5Fr | aplFr | aproSt | encSt
  | fluxCnt | histMin | histNb | histOor | histFlags
  | peakN | encKind | bitCellNs | encRate
  | peakPos (k : Fin 16) | peakCnt (k : Fin 16) | peakLbl (k : Fin 16)
  /-- Offset 0x20C + 16k, which reads 0 (R60). -/
  | peakPad (k : Fin 16)
  | binCnt (i : Fin 1024)
deriving DecidableEq, Repr

/-- The offset of a register (R31 to R61). -/
def Reg.offset : Reg → Nat
  | .id => 0x000
  | .status => 0x004
  | .errcode => 0x008
  | .irqEn => 0x00C
  | .cmd => 0x010
  | .din0 => 0x014
  | .din1 => 0x018
  | .dout0 => 0x01C
  | .dout1 => 0x020
  | .evt => 0x024
  | .histW => 0x040
  | .peakThr => 0x044
  | .peakSep => 0x048
  | .cellNs => 0x04C
  | .crc16Initv => 0x050
  | .crc16 => 0x080
  | .crc32 => 0x084
  | .crc32Out => 0x088
  | .crc32be => 0x08C
  | .amiCsum => 0x090
  | .mfmFr => 0x0A0
  | .m2fmFr => 0x0A4
  | .fmFr => 0x0A8
  | .gcr5Fr => 0x0AC
  | .aplFr => 0x0B0
  | .aproSt => 0x0B4
  | .encSt => 0x0B8
  | .fluxCnt => 0x100
  | .histMin => 0x104
  | .histNb => 0x108
  | .histOor => 0x10C
  | .histFlags => 0x110
  | .peakN => 0x120
  | .encKind => 0x124
  | .bitCellNs => 0x128
  | .encRate => 0x12C
  | .peakPos k => 0x200 + 16 * k.val
  | .peakCnt k => 0x204 + 16 * k.val
  | .peakLbl k => 0x208 + 16 * k.val
  | .peakPad k => 0x20C + 16 * k.val
  | .binCnt i => 0x1000 + 4 * i.val

/-- The register of the peak table at byte `n` of its window (R60). -/
def peakReg (n : Nat) : Reg :=
  let k := Fin.ofNat 16 (n / 16)
  if n % 16 = 0 then .peakPos k
  else if n % 16 = 4 then .peakCnt k
  else if n % 16 = 8 then .peakLbl k
  else .peakPad k

/-- The register below the peak table and the bin window at an offset. -/
def lowReg (n : Nat) : Option Reg :=
  match n with
  | 0x000 => some .id
  | 0x004 => some .status
  | 0x008 => some .errcode
  | 0x00C => some .irqEn
  | 0x010 => some .cmd
  | 0x014 => some .din0
  | 0x018 => some .din1
  | 0x01C => some .dout0
  | 0x020 => some .dout1
  | 0x024 => some .evt
  | 0x040 => some .histW
  | 0x044 => some .peakThr
  | 0x048 => some .peakSep
  | 0x04C => some .cellNs
  | 0x050 => some .crc16Initv
  | 0x080 => some .crc16
  | 0x084 => some .crc32
  | 0x088 => some .crc32Out
  | 0x08C => some .crc32be
  | 0x090 => some .amiCsum
  | 0x0A0 => some .mfmFr
  | 0x0A4 => some .m2fmFr
  | 0x0A8 => some .fmFr
  | 0x0AC => some .gcr5Fr
  | 0x0B0 => some .aplFr
  | 0x0B4 => some .aproSt
  | 0x0B8 => some .encSt
  | 0x100 => some .fluxCnt
  | 0x104 => some .histMin
  | 0x108 => some .histNb
  | 0x10C => some .histOor
  | 0x110 => some .histFlags
  | 0x120 => some .peakN
  | 0x124 => some .encKind
  | 0x128 => some .bitCellNs
  | 0x12C => some .encRate
  | _ => none

/-- The register a 4-byte access at byte offset `n` reaches, if one is mapped there (R100, R103,
R104). -/
def regAt (n : Nat) : Option Reg :=
  if n % 4 ≠ 0 then none
  else if 0x200 ≤ n ∧ n < 0x300 then some (peakReg (n - 0x200))
  else if 0x1000 ≤ n ∧ n < 0x2000 then some (.binCnt (Fin.ofNat 1024 ((n - 0x1000) / 4)))
  else lowReg n

/-- The access types of 10_state.md section 2. -/
inductive AccessType
  | ro
  | rw
  | w1c
  | wo
deriving DecidableEq, Repr

/-- The access type of a register. -/
def Reg.accessType : Reg → AccessType
  | .status => .w1c
  | .cmd => .wo
  | .irqEn | .din0 | .din1 | .histW | .peakThr | .peakSep | .cellNs | .crc16Initv => .rw
  | _ => .ro

/-! ### Read-only views -/

/-- MFM_FR and M2FM_FR (R49, R50). -/
def Framer.view (f : Framer) : Word :=
  0#3 ++ BitVec.ofBool f.err ++ f.zrun ++ BitVec.ofBool f.prev ++ BitVec.ofBool f.locked ++ f.a1cnt ++
    f.phase ++ f.sr

/-- FM_FR (R51): bits 21:20 and 31:23 read 0. -/
def FmFramer.view (f : FmFramer) : Word := 0#9 ++ BitVec.ofBool f.locked ++ 0#2 ++ f.phase ++ f.sr

/-- The code of GCR5_FR[15:14] (R52). -/
def Gcr5Mode.code : Gcr5Mode → BitVec 2
  | .hunt => 0
  | .sync => 1
  | .data => 2

/-- GCR5_FR (R52). -/
def Gcr5Framer.view (f : Gcr5Framer) : Word := 0#8 ++ f.ones ++ f.mode.code ++ f.cnt ++ f.acc

/-- The code of APRO_ST[2:0] (R54). -/
def AproState.code : AproState → BitVec 3
  | .idle => 0
  | .d5Seen => 1
  | .aaSeen => 2
  | .deSeen => 3
  | .deAa => 4

/-- ENC_ST (R55). -/
def Encoders.view (e : Encoders) : Word :=
  0#28 ++ BitVec.ofBool e.amiprev ++ BitVec.ofBool e.m2prevc ++ BitVec.ofBool e.m2prevd ++
    BitVec.ofBool e.mfmprev

/-- HIST_FLAGS (R59). -/
def histFlagsView (s : State) : Word :=
  0#29 ++ BitVec.ofBool s.classValid ++ BitVec.ofBool s.peaksValid ++ BitVec.ofBool s.histValid

/-- The code of ENC_KIND (R61). -/
def EncKind.code : EncKind → BitVec 2
  | .auto => 0
  | .mfm => 1
  | .fm => 2

/-- The code of ENC_RATE (R61). -/
def EncRate.code : EncRate → BitVec 2
  | .unknown => 0
  | .mfmDd250k => 1
  | .mfmHd500k => 2

/-! ### Reading and writing -/

/-- The value a register reads as. -/
def readReg (r : Reg) (s : State) : Word :=
  match r with
  | .id => s.params.idValue
  | .status => zext32 s.status
  | .errcode => zext32 s.errcode
  | .irqEn => zext32 s.irqEn
  | .cmd => 0
  | .din0 => s.din0
  | .din1 => s.din1
  | .dout0 => s.dout0
  | .dout1 => s.dout1
  | .evt => zext32 s.evt
  | .histW => zext32 s.histW
  | .peakThr => zext32 s.peakThr
  | .peakSep => zext32 s.peakSep
  | .cellNs => zext32 s.cellNs
  | .crc16Initv => zext32 s.crc16Initv
  | .crc16 => zext32 s.crc16
  | .crc32 => s.crc32
  | .crc32Out => s.crc32 ^^^ 0xFFFFFFFF
  | .crc32be => s.crc32be
  | .amiCsum => s.amiacc &&& amiMask
  | .mfmFr => s.mfm.view
  | .m2fmFr => s.m2.view
  | .fmFr => s.fm.view
  | .gcr5Fr => s.g5.view
  | .aplFr => zext32 s.aplsr
  | .aproSt => zext32 s.apro.code
  | .encSt => s.enc.view
  | .fluxCnt => s.fluxcnt
  | .histMin => s.histMin
  | .histNb => zext32 s.histNb
  | .histOor => s.histOor
  | .histFlags => histFlagsView s
  | .peakN => zext32 s.peakN
  | .encKind => zext32 s.reading.kind.code
  | .bitCellNs => s.reading.bitCellNs
  | .encRate => zext32 s.reading.rate.code
  | .peakPos k => s.peaks[k].pos
  | .peakCnt k => s.peaks[k].cnt
  | .peakLbl k => zext32 s.peaks[k].lbl
  | .peakPad _ => 0
  | .binCnt i => if i.val < s.params.nbins then binCntRead s.mem i.val else 0

/-- What a write stores in an RW register: the value's named field (R105); a register of another
access type stores nothing here. -/
def storeReg (r : Reg) (v : Word) (s : State) : State :=
  match r with
  | .irqEn => { s with irqEn := v.setWidth 7 }
  | .din0 => { s with din0 := v }
  | .din1 => { s with din1 := v }
  | .histW => { s with histW := v.setWidth 16 }
  | .peakThr => { s with peakThr := v.setWidth 8 }
  | .peakSep => { s with peakSep := v.setWidth 16 }
  | .cellNs => { s with cellNs := v.setWidth 16 }
  | .crc16Initv => { s with crc16Initv := v.setWidth 16 }
  | _ => s

/-- A write to STATUS (R446): each bit written 1 is cleared. -/
def clearStatus (v : Word) (s : State) : State := { s with status := s.status &&& ~~~(v.setWidth 7) }

end Sys2Proof.Machine
end

