-- ==== Sys2Proof/Machine/Bus.lean ====
section
/-! DEFINITION. Serving what the host and the platform do (spec/20_memory.md R103 to R105, R110;
spec/70_reset_and_hazards.md R480): one access is complete before the next is served. -/

namespace Sys2Proof.Machine

/-- A CMD write (R35, R136): decode the word, and run the command or reject the word. -/
def runCommand (w : Word) (s : State) : Result :=
  match decode w with
  | .ok i => exec i s
  | .error e => .next (reject (rejectCode e) s)

/-- The register an access of `size` bytes at `off` reaches (R103, R104): none if the size is not 4,
the offset is not a multiple of 4, or nothing is mapped there. It takes no state: there is one privilege
level, and no mode, key or lock decides what the host reaches (R452, R460). -/
def accessReg (off : BitVec 16) (size : Nat) : Option Reg :=
  if size = 4 then regAt off.toNat else none

/-- A read (R103, R104): the register's value, or 0 with a bus fault. -/
def serveRead (off : BitVec 16) (size : Nat) (s : State) : State :=
  match accessReg off size with
  | some r => { s with lastRead := some (readReg r s) }
  | none => { busFault s with lastRead := some 0 }

/-- A write (R104, R105). -/
def serveWrite (off : BitVec 16) (size : Nat) (v : Word) (s : State) : Result :=
  match accessReg off size with
  | none => .next (busFault s)
  | some r =>
    match r.accessType with
    | .ro => .next (busFault s)
    | .wo => runCommand v s
    | .w1c => .next (clearStatus v s)
    | .rw => .next (storeReg r v s)

/-- Hardware reset (R480, R481, R483): every state element takes its reset value. The parameters are
not state, and what the outside world does next is not the block's. -/
def hardwareReset (s : State) : State := { resetState s.params with pending := s.pending }

/-- Serve one event. -/
def serveEvent (e : HostEvent) (s : State) : Result :=
  match e with
  | .access (.read off size) => .next (serveRead off size s)
  | .access (.write off size v) => serveWrite off size v s
  | .reset => .next (hardwareReset s)
  | .accessInReset _ => .refused .accessDuringReset

/-- The state in which the oldest pending event is served: it is off the list, and no read has
returned data yet. -/
def takeEvent (rest : List HostEvent) (s : State) : State := { s with pending := rest, lastRead := none }

/-- The host's write of a command word to CMD, from the bits of a row of the opcode table (R35, R138). -/
def cmdWrite (nbits w : Nat) : HostEvent := .access (.write 0x010 4 (BitVec.ofNat 32 (w % 2 ^ nbits)))

end Sys2Proof.Machine
end

