-- ==== Sys2Proof/Machine/Step.lean ====
section
/-! DEFINITION. One step: the block serves the oldest thing the host or the platform does next, and
waits where there is none (spec/20_memory.md R110, spec/70_reset_and_hazards.md R480). -/

namespace Sys2Proof.Machine

/-- One step of the block. -/
def step (s : State) : Host.Outcome State Fault Refusal :=
  match s.pending with
  | [] => .next s
  | e :: rest => serveEvent e (takeEvent rest s)

/-- The state whose next event is the host's write of the command word `w` to CMD: the block fetches
nothing (R63, R113), so this is where its next instruction comes from. -/
def State.withFetchWord (s : State) (nbits w : Nat) : State :=
  { s with pending := cmdWrite nbits w :: s.pending }

end Sys2Proof.Machine
end

