-- ==== Sys2Proof/Machine/Assembler.lean ====
section
/-! DEFINITION. The host's assembler (spec/30_encoding.md R139, R140): the lines of a host program, the
bus accesses each stands for, and the text of a command. -/

namespace Sys2Proof.Machine

/-- The mnemonic of a command (R135). -/
def mnemonic : Instr → String
  | .nop => "NOP"
  | .srst _ => "SRST"
  | .mfmDecCell _ => "MFM.DEC.CELL"
  | .mfmEncByte _ => "MFM.ENC.BYTE"
  | .mfmEncSync _ => "MFM.ENC.SYNC"
  | .mfmEncPrev _ => "MFM.ENC.PREV"
  | .fmDecCell _ => "FM.DEC.CELL"
  | .fmEncByte _ => "FM.ENC.BYTE"
  | .fmEncMark _ => "FM.ENC.MARK"
  | .m2fmDecCell _ => "M2FM.DEC.CELL"
  | .m2fmEncByte _ => "M2FM.ENC.BYTE"
  | .m2fmEncPrev _ => "M2FM.ENC.PREV"
  | .gcr5EncNib _ => "GCR5.ENC.NIB"
  | .gcr5DecCode _ => "GCR5.DEC.CODE"
  | .gcr5EncByte _ => "GCR5.ENC.BYTE"
  | .gcr5DecWord _ => "GCR5.DEC.WORD"
  | .gcr5DecCell _ => "GCR5.DEC.CELL"
  | .a62Enc _ => "A62.ENC"
  | .a62Dec _ => "A62.DEC"
  | .a53Enc _ => "A53.ENC"
  | .a53Dec _ => "A53.DEC"
  | .aplDecCell _ => "APL.DEC.CELL"
  | .aproStep _ => "APRO.STEP"
  | .amiEncLong => "AMI.ENC.LONG"
  | .amiEncHalf _ => "AMI.ENC.HALF"
  | .amiDecLong => "AMI.DEC.LONG"
  | .amiEncPrev _ => "AMI.ENC.PREV"
  | .amiCsumClr => "AMI.CSUM.CLR"
  | .amiCsumAdd => "AMI.CSUM.ADD"
  | .crc16Init => "CRC16.INIT"
  | .crc16Load _ => "CRC16.LOAD"
  | .crc16Byte _ => "CRC16.BYTE"
  | .crc32Init => "CRC32.INIT"
  | .crc32Load => "CRC32.LOAD"
  | .crc32Byte _ => "CRC32.BYTE"
  | .crc32beInit => "CRC32BE.INIT"
  | .crc32beLoad => "CRC32BE.LOAD"
  | .crc32beByte _ => "CRC32BE.BYTE"
  | .fluxClr => "FLUX.CLR"
  | .fluxPush => "FLUX.PUSH"
  | .histBuild => "HIST.BUILD"
  | .peakFind => "PEAK.FIND"
  | .classify => "CLASSIFY"
  | .fluxCells => "FLUX.CELLS"

/-- The SEL token of a command that has a selector, SRST's mask as a number (R139). -/
def selToken : Instr → Option String
  | .srst mask => some (toString mask.toNat)
  | .mfmEncSync .a1 => some "A1"
  | .mfmEncSync .c2 => some "C2"
  | .fmEncMark .idam => some "IDAM"
  | .fmEncMark .dam => some "DAM"
  | .fmEncMark .ddam => some "DDAM"
  | .fmEncMark .iam => some "IAM"
  | .amiEncHalf .odd => some "ODD"
  | .amiEncHalf .even => some "EVEN"
  | _ => none

/-- The IMM number of a command that has an immediate (R132, R139). -/
def immToken (i : Instr) : Option String :=
  match opRow (encodeCommand i).opc with
  | some r => if r.k = 0 then none else some (toString (encodeCommand i).imm.toNat)
  | none => none

/-- `MNEMONIC [SEL-token] [IMM]` (R139), numbers in decimal. -/
def commandText (i : Instr) : String :=
  mnemonic i ++ ((selToken i).map (" " ++ ·)).getD "" ++ ((immToken i).map (" " ++ ·)).getD ""

/-- A line of a host program (R139, R140). -/
inductive HostLine
  | cmd (i : Instr)
  | wr (r : Reg) (v : Word)
  | rd (r : Reg)
  | mfmDecWord (w : Half)
  | fmDecWord (w : Half)
  | m2fmDecWord (w : Half)
  | gcr5DecBits (n v : Nat)
  | aplDecBits (n v : Nat)
  | crc16Buf (bytes : List Byte)
  | crc32Buf (bytes : List Byte)
  | crc32beBuf (bytes : List Byte)
  | fluxPushv (v : Word)
  | fluxAnalyze
  | srstAll
deriving DecidableEq, Repr

/-- `WR <register>, <value>` (R139). -/
def writeEvent (r : Reg) (v : Word) : HostEvent := .access (.write (BitVec.ofNat 16 r.offset) 4 v)

/-- `RD <register>` (R139). -/
def readEvent (r : Reg) : HostEvent := .access (.read (BitVec.ofNat 16 r.offset) 4)

/-- A command line is shorthand for `WR CMD, <word>` (R139). -/
def commandEvent (i : Instr) : HostEvent := writeEvent .cmd (encode i)

/-- The low `n` bits of `v`, most significant first (R140 `v[n-1]` down to `v[0]`). -/
def bitsDown (n v : Nat) : List Bool := (List.range n).map fun p => v.testBit (n - 1 - p)

/-- The commands a pseudo-instruction stands for (R140); a single command stands for itself. -/
def pseudoCommands : HostLine → List Instr
  | .cmd i => [i]
  | .wr _ _ => []
  | .rd _ => []
  | .mfmDecWord w => (cellsOf w).map .mfmDecCell
  | .fmDecWord w => (cellsOf w).map .fmDecCell
  | .m2fmDecWord w => (cellsOf w).map .m2fmDecCell
  | .gcr5DecBits n v => (bitsDown n v).map .gcr5DecCell
  | .aplDecBits n v => (bitsDown n v).map .aplDecCell
  | .crc16Buf bytes => bytes.map .crc16Byte
  | .crc32Buf bytes => bytes.map .crc32Byte
  | .crc32beBuf bytes => bytes.map .crc32beByte
  | .fluxPushv _ => [.fluxPush]
  | .fluxAnalyze => [.histBuild, .peakFind, .classify]
  | .srstAll => [.srst 0xFF]

/-- The bus accesses of a line, in order (R139, R140). -/
def lineEvents (l : HostLine) : List HostEvent :=
  match l with
  | .wr r v => [writeEvent r v]
  | .rd r => [readEvent r]
  | .fluxPushv v => [writeEvent .din0 v, commandEvent .fluxPush]
  | l => (pseudoCommands l).map commandEvent

/-- The bus accesses of a host program. -/
def programEvents (ls : List HostLine) : List HostEvent := ls.flatMap lineEvents

end Sys2Proof.Machine
end

