-- ==== Sys2Proof/WellFormed.lean ====
section
/-! DEFINITION. Which raw command words are legal (spec/30_encoding.md R132, R134, R137), written from
the rules' own lists and not from the decoder's table, and which parameters are (spec/00_scope.md R6). -/

namespace Sys2Proof

/-- R137: the opcodes that are illegal, as its list of ranges. -/
def Command.opcIllegal (o : Nat) : Bool :=
  (0x02 ≤ o && o ≤ 0x0F) || o == 0x17 || (0x1B ≤ o && o ≤ 0x1F) || (0x25 ≤ o && o ≤ 0x27) ||
  o == 0x2E || o == 0x2F || (0x36 ≤ o && o ≤ 0x3F) || o == 0x43 || o == 0x47 ||
  (0x4B ≤ o && o ≤ 0x4F) || 0x56 ≤ o

/-- R134, R135: SRST takes any selector; MFM.ENC.SYNC and AMI.ENC.HALF take 0 and 1, FM.ENC.MARK
0 to 3; every other command takes 0 only. -/
def Command.selLegal (o sel : Nat) : Bool :=
  o == 0x01 || ((o == 0x12 || o == 0x31) && sel ≤ 1) || (o == 0x16 && sel ≤ 3) || sel == 0

/-- R132, R135: the immediate width k of an opcode. -/
def Command.immWidth (o : Nat) : Nat :=
  if o ∈ [0x10, 0x13, 0x14, 0x18, 0x24, 0x2C, 0x33] then 1
  else if o = 0x1A then 2
  else if o = 0x20 then 4
  else if o ∈ [0x21, 0x2A] then 5
  else if o = 0x28 then 6
  else if o ∈ [0x11, 0x15, 0x19, 0x22, 0x29, 0x2B, 0x2D, 0x42, 0x46, 0x4A] then 8
  else if o = 0x23 then 10
  else if o = 0x41 then 16
  else 0

/-- The three checks of R136 on a raw command. -/
def Command.wellFormed (c : Command) : Bool :=
  !Command.opcIllegal c.opc.toNat &&
  Command.selLegal c.opc.toNat c.sel.toNat &&
  decide (c.imm.toNat < 2 ^ Command.immWidth c.opc.toNat)

/-- The legal ranges of R6. -/
def Config.Params.legal (p : Config.Params) : Bool :=
  (1 ≤ p.nbins && p.nbins ≤ 1024) &&
  (1 ≤ p.fluxDepth && p.fluxDepth ≤ 2 ^ 24) &&
  (3 ≤ p.maxPeaks && p.maxPeaks ≤ 16)

end Sys2Proof
end

