-- ==== Sys2Proof/Safety.lean ====
section
/-! DEFINITION. The terms in which claims speak of runs: lists of commands and of host events, what a
run reports, the register map as R100 lists it, the units of R494, and the invariants of a step. -/

namespace Sys2Proof.Machine

open Sys2Proof.Config

/-! ### Runs -/

/-- The state an outcome goes on in, if it goes on. -/
def nextOf (r : Result) : Option State :=
  match r with
  | .next s => some s
  | .fault _ => none
  | .refused _ => none

/-- The state after a list of commands, each accepted or rejected, run one after the other. -/
def execAll : List Instr → State → Option State
  | [], s => some s
  | i :: is, s => (nextOf (exec i s)).bind (execAll is)

/-- The states a list of commands passes through: the state after each. -/
def execTrace : List Instr → State → List State
  | [], _ => []
  | i :: is, s =>
    match nextOf (exec i s) with
    | some t => t :: execTrace is t
    | none => []

/-- What a host that reads EVT after every command sees of a run: DOUT0 and EVT wherever EVT is not 0
(R492). -/
def reports (is : List Instr) (s : State) : List (Word × Byte) :=
  ((execTrace is s).filter (·.evt != 0)).map fun t => (t.dout0, t.evt)

/-- `n` steps, if each goes on. -/
def stepMany : Nat → State → Option State
  | 0, s => some s
  | n + 1, s => (nextOf (step s)).bind (stepMany n)

/-- The state after the host and the platform have done `es`, starting from `s` with nothing else
pending. -/
def afterEvents (es : List HostEvent) (s : State) : Option State :=
  stepMany es.length { s with pending := es }

/-- A 4-byte read at byte offset `n` returns `v`, and the read changes nothing. -/
def readsAs (n : Nat) (v : Word) (s : State) : Prop :=
  ∀ rest,
    step { s with pending := .access (.read (BitVec.ofNat 16 n) 4) :: rest } =
      .next { s with pending := rest, lastRead := some v }

/-! ### Encoded streams -/

/-- The cell words of a byte string, MFM-encoded after the data bit `p` (R205). -/
def mfmWords : Bool → List Byte → List Half
  | _, [] => []
  | p, d :: ds => (mfmEnc d p).1 :: mfmWords (mfmEnc d p).2 ds

/-- The cell words of a byte string, M2FM-encoded after the data bit `pd` and clock bit `pc` (R230). -/
def m2fmWords : Bool → Bool → List Byte → List Half
  | _, _, [] => []
  | pd, pc, d :: ds =>
    (m2fmEnc d pd pc).word :: m2fmWords (m2fmEnc d pd pc).pd (m2fmEnc d pd pc).pc ds

/-- The cells of a list of cell words, first in time first (R12). -/
def cellsOfWords {w : Nat} (ws : List (BitVec w)) : List Bool := ws.flatMap cellsOf

/-! ### The register map, as R100 and 10_state.md list it -/

/-- The offsets of the named registers. -/
def namedOffsets : List Nat :=
  [0x000, 0x004, 0x008, 0x00C, 0x010, 0x014, 0x018, 0x01C, 0x020, 0x024] ++
  [0x040, 0x044, 0x048, 0x04C, 0x050] ++
  [0x080, 0x084, 0x088, 0x08C, 0x090] ++
  [0x0A0, 0x0A4, 0x0A8, 0x0AC, 0x0B0, 0x0B4, 0x0B8] ++
  [0x100, 0x104, 0x108, 0x10C, 0x110] ++
  [0x120, 0x124, 0x128, 0x12C]

/-- A 4-byte access at byte offset `n` reaches a register (R100, R103): the offset is a multiple of 4
and named, in the peak table, or in the bin window. -/
def offsetMapped (n : Nat) : Bool :=
  n % 4 == 0 && (namedOffsets.contains n || (0x200 ≤ n && n < 0x300) || (0x1000 ≤ n && n < 0x2000))

/-- The offsets a write does not fault at: STATUS, CMD and the RW registers (R104, R105). -/
def writableOffsets : List Nat :=
  [0x004, 0x00C, 0x010, 0x014, 0x018, 0x040, 0x044, 0x048, 0x04C, 0x050]

/-- The RW registers with the mask of their named bits (R34, R37, R40 to R44). -/
def rwMasks : List (Nat × Word) :=
  [(0x00C, 0x7F), (0x014, 0xFFFFFFFF), (0x018, 0xFFFFFFFF), (0x040, 0xFFFF), (0x044, 0xFF),
   (0x048, 0xFFFF), (0x04C, 0xFFFF), (0x050, 0xFFFF)]

/-! ### Units (R494) -/

/-- The units of the block whose state is separate, and `stateless` for commands that touch none. -/
inductive UnitName
  | mfmFramer | mfmEncoder | fmFramer | m2fmFramer | m2fmEncoder | gcr5Framer
  | appleFramer | applePrologue | amigaEncoder | amigaChecksum
  | crc16 | crc32 | crc32be | analyser | stateless
deriving DecidableEq, Repr

/-- The unit a command belongs to; SRST belongs to none (R431). -/
def unitOf : Instr → UnitName
  | .mfmDecCell _ => .mfmFramer
  | .mfmEncByte _ | .mfmEncSync _ | .mfmEncPrev _ => .mfmEncoder
  | .fmDecCell _ => .fmFramer
  | .m2fmDecCell _ => .m2fmFramer
  | .m2fmEncByte _ | .m2fmEncPrev _ => .m2fmEncoder
  | .gcr5DecCell _ => .gcr5Framer
  | .aplDecCell _ => .appleFramer
  | .aproStep _ => .applePrologue
  | .amiEncLong | .amiEncHalf _ | .amiEncPrev _ => .amigaEncoder
  | .amiCsumClr | .amiCsumAdd => .amigaChecksum
  | .crc16Init | .crc16Load _ | .crc16Byte _ => .crc16
  | .crc32Init | .crc32Load | .crc32Byte _ => .crc32
  | .crc32beInit | .crc32beLoad | .crc32beByte _ => .crc32be
  | .fluxClr | .fluxPush | .histBuild | .peakFind | .classify => .analyser
  | .nop | .srst _ | .fmEncByte _ | .fmEncMark _ | .gcr5EncNib _ | .gcr5DecCode _ | .gcr5EncByte _
  | .gcr5DecWord _ | .a62Enc _ | .a62Dec _ | .a53Enc _ | .a53Dec _ | .amiDecLong | .fluxCells => .stateless

/-- `s` with the state of unit `u` taken from `a` and the state of every other unit from `b`; the
registers that belong to no unit stay those of `s`. -/
def mixUnits (u : UnitName) (a b s : State) : State :=
  { s with
    mfm := (if u = .mfmFramer then a else b).mfm
    fm := (if u = .fmFramer then a else b).fm
    m2 := (if u = .m2fmFramer then a else b).m2
    g5 := (if u = .gcr5Framer then a else b).g5
    aplsr := (if u = .appleFramer then a else b).aplsr
    apro := (if u = .applePrologue then a else b).apro
    enc :=
      { mfmprev := (if u = .mfmEncoder then a else b).enc.mfmprev
        m2prevd := (if u = .m2fmEncoder then a else b).enc.m2prevd
        m2prevc := (if u = .m2fmEncoder then a else b).enc.m2prevc
        amiprev := (if u = .amigaEncoder then a else b).enc.amiprev }
    amiacc := (if u = .amigaChecksum then a else b).amiacc
    crc16 := (if u = .crc16 then a else b).crc16
    crc32 := (if u = .crc32 then a else b).crc32
    crc32be := (if u = .crc32be then a else b).crc32be
    mem := (if u = .analyser then a else b).mem
    fluxcnt := (if u = .analyser then a else b).fluxcnt
    histMin := (if u = .analyser then a else b).histMin
    histNb := (if u = .analyser then a else b).histNb
    histOor := (if u = .analyser then a else b).histOor
    histValid := (if u = .analyser then a else b).histValid
    peaksValid := (if u = .analyser then a else b).peaksValid
    classValid := (if u = .analyser then a else b).classValid
    peakN := (if u = .analyser then a else b).peakN
    peaks := (if u = .analyser then a else b).peaks
    reading := (if u = .analyser then a else b).reading }

/-! ### Invariants of a step -/

/-- What holds of an MFM or M2FM framer (R49, R203): nothing is counted while it is unlocked, `prev` is
the last cell shifted in, and `zrun` counts 0 cells at the end of the shift register. -/
structure FramerOk (f : Framer) : Prop where
  unlocked : f.locked = false → f.phase = 0 ∧ f.a1cnt = 0 ∧ f.err = false
  lastCell : f.sr.getLsbD 0 = f.prev
  zeros : ∀ k, k < f.zrun.toNat → f.sr.getLsbD k = false

/-- What holds of the GCR-CBM framer (R52, R267). -/
structure Gcr5Ok (g : Gcr5Framer) : Prop where
  count : g.cnt.toNat ≤ 9
  partialGroup : g.acc.toNat < 2 ^ g.cnt.toNat
  noGroup : g.mode ≠ .data → g.acc = 0 ∧ g.cnt = 0
  inSync : g.mode = .sync ↔ 10 ≤ g.ones.toNat

/-- What every step keeps of the framers (R49 to R53). -/
structure FramersInv (s : State) : Prop where
  mfm : FramerOk s.mfm
  m2 : FramerOk s.m2
  fm : s.fm.locked = false → s.fm.phase = 0
  g5 : Gcr5Ok s.g5
  apple : s.aplsr.getLsbD 7 = false

/-- What every step keeps of the internal memories (R56, R57, R382 corner case 5), for legal
parameters (R6): they are in canonical form, every sample counted has been written, and every bin that
holds something is in use. -/
structure MemoryInv (s : State) : Prop where
  legal : s.params.legal = true
  wf : s.mem.wf
  depth : s.fluxcnt.toNat ≤ s.params.fluxDepth
  inside : ∀ e ∈ s.mem.flux, e.1 < s.params.fluxDepth
  written : ∀ i, i < s.fluxcnt.toNat → (cellFind s.mem.flux i).isSome
  cntInUse : ∀ e ∈ s.mem.binCnt, e.1 < s.histNb.toNat
  sumInUse : ∀ e ∈ s.mem.binSum, e.1 < s.histNb.toNat
  bins : s.histNb.toNat ≤ s.params.nbins

/-- What every step keeps of the analyser's results (R59 to R61, R382, R384, R386, R394). -/
structure AnalyserInv (s : State) : Prop where
  classNeedsPeaks : s.classValid = true → s.peaksValid = true
  peaksNeedHist : s.peaksValid = true → s.histValid = true
  histNotEmpty : s.histValid = true → s.fluxcnt ≠ 0 ∧ 1 ≤ s.histNb.toNat ∧ binCntRead s.mem 0 ≠ 0
  counts : ∀ i, (binCntRead s.mem i).toNat ≤ s.params.fluxDepth
  sums : ∀ i, (binSumRead s.mem i).toNat ≤ (binCntRead s.mem i).toNat * (2 ^ 32 - 1)
  tableSize : s.peakN.toNat ≤ s.params.maxPeaks
  tableEnd : ∀ k : Fin 16, s.peakN.toNat ≤ k.val → s.peaks[k] = .zero
  ascending : ∀ j k : Fin 16, j.val < k.val → k.val < s.peakN.toNat → s.peaks[j].pos ≤ s.peaks[k].pos
  autoCell : s.reading.kind = .auto ↔ s.reading.bitCellNs = 0
  rateOfMfm : s.reading.rate ≠ .unknown → s.reading.kind = .mfm
  shortest : s.classValid = true → s.reading.kind ≠ .auto → s.reading.bitCellNs = s.peaks[0].pos

/-- What every step keeps of the error report (R33, R36, R440, R441, R445). -/
structure ReportInv (s : State) : Prop where
  knownCode : s.errcode.toNat ≤ 5
  codeRecorded : s.status &&& 0x1F ≠ 0 → s.errcode ≠ 0
  rejectedAlone : s.evt.getLsbD 7 = true → s.evt = 0x80
  markWithByte : s.evt &&& 0x0C ≠ 0 → s.evt.getLsbD 0 = true
  prologueAlone : s.evt &&& 0x60 ≠ 0 → s.evt &&& 0x9F = 0

end Sys2Proof.Machine
end

