-- ==== Sys2Proof/Certificates/Slice0/Obligations.lean ====
section
/-! DEFINITION. The statements for the provers. Numbers in docstrings are the rules of spec/; EVT, STATUS
and ERRCODE values are written as the bits of R36, R32 and R440. -/

open Sys2Proof Sys2Proof.Machine Sys2Proof.Config

/-! ### Encoding and the course of a step -/

/-- R135, R136, R139: decoding the word a command assembles to gives the command back, with every
selector and every immediate. -/
def Obligations.DecodeEncodeRoundTrip : Prop :=
  ∀ i : Instr, decode (encode i) = .ok i

/-- R136, R441, R442 items 1 to 3: a word whose OPC is in none of the rows, whose SEL is not legal, or
whose IMM is too wide is rejected with the code of the first check it fails; every other word is the
encoding of a command and runs it. -/
def Obligations.CommandWordsRunOrAreRejected : Prop :=
  ∀ (w : Word) (s : State),
    let c := commandOfWord w
    let illegal : State := { s with evt := 0x80, status := s.status ||| 0x01, errcode := 1 }
    let tooWide : State := { s with evt := 0x80, status := s.status ||| 0x02, errcode := 2 }
    (Command.opcIllegal c.opc.toNat = true → runCommand w s = .next illegal) ∧
    (Command.opcIllegal c.opc.toNat = false → Command.selLegal c.opc.toNat c.sel.toNat = false →
      runCommand w s = .next illegal) ∧
    (Command.opcIllegal c.opc.toNat = false → Command.selLegal c.opc.toNat c.sel.toNat = true →
      2 ^ Command.immWidth c.opc.toNat ≤ c.imm.toNat → runCommand w s = .next tooWide) ∧
    (c.wellFormed = true → ∃ i, encode i = w ∧ decode w = .ok i ∧ runCommand w s = exec i s)

/-- R130, R135: words written out from the opcode map decode to the commands they stand for. -/
def Obligations.WrittenWordsDecode : Prop :=
  decode 0x00000000 = .ok .nop ∧ decode 0x01810000 = .ok (.srst 0x81) ∧
  decode 0x10000001 = .ok (.mfmDecCell true) ∧ decode 0x12010000 = .ok (.mfmEncSync .c2) ∧
  decode 0x16020000 = .ok (.fmEncMark .ddam) ∧ decode 0x1A000002 = .ok (.m2fmEncPrev 2) ∧
  decode 0x230003FF = .ok (.gcr5DecWord 0x3FF) ∧ decode 0x2D0000D5 = .ok (.aproStep 0xD5) ∧
  decode 0x31010000 = .ok (.amiEncHalf .even) ∧ decode 0x4100CDB4 = .ok (.crc16Load 0xCDB4) ∧
  decode 0x55000000 = .ok .fluxCells

/-- R35, R110, R136: when the next thing the host does is a 4-byte write of a word to CMD, the step runs
the command the word decodes to, in the state with that access taken off the queue, or rejects the word.
(The queue `pending` and the field `lastRead` are the model's own, log entries 2 and 3.) -/
def Obligations.StepRunsDecodedCommand : Prop :=
  ∀ (s : State) (w : Word) (rest : List HostEvent),
    s.pending = .access (.write 0x010 4 w) :: rest →
    (∀ i, decode w = .ok i → step s = exec i { s with pending := rest, lastRead := none }) ∧
    (∀ e, decode w = .error e → ∃ c : Nat, (c = if e = .immTooWide then 2 else 1) ∧
      step s = .next
        { s with
          pending := rest
          lastRead := none
          evt := 0x80
          status := s.status ||| (1 <<< (c - 1))
          errcode := BitVec.ofNat 4 c })

/-! ### The register space -/

/-- R443 (with the accesses R103 and R104 name): a faulting access sets STATUS.BUS_ERR and ERRCODE, a
read of it returns 0, and nothing else changes: a faulting write to CMD runs no command. (What becomes
of `pending` and `lastRead` is the model's own, log entries 2 and 3.) -/
def Obligations.BusFaultChangesOnlyReport : Prop :=
  ∀ (s : State) (rest : List HostEvent) (off : BitVec 16) (size : Nat) (v : Word),
    (¬(size = 4 ∧ offsetMapped off.toNat = true) →
      step { s with pending := .access (.read off size) :: rest } =
        .next { s with pending := rest, lastRead := some 0, status := s.status ||| 0x10, errcode := 5 }) ∧
    (¬(size = 4 ∧ off.toNat ∈ writableOffsets) →
      step { s with pending := .access (.write off size v) :: rest } =
        .next { s with pending := rest, lastRead := none, status := s.status ||| 0x10, errcode := 5 })

/-- R31 to R61, R104, R105: what a read of each mapped offset returns. No read changes anything
(`readsAs`, over the model's own `pending` and `lastRead`, log entries 2 and 3). The registers with
several fields of internal state are in `ViewFieldsRead`. -/
def Obligations.MappedRegistersRead : Prop :=
  ∀ s : State,
    (readsAs 0x000 s.params.idValue s ∧ readsAs 0x004 (s.status.setWidth 32) s ∧
      readsAs 0x008 (s.errcode.setWidth 32) s ∧ readsAs 0x00C (s.irqEn.setWidth 32) s ∧
      readsAs 0x010 0 s ∧ readsAs 0x014 s.din0 s ∧ readsAs 0x018 s.din1 s ∧ readsAs 0x01C s.dout0 s ∧
      readsAs 0x020 s.dout1 s ∧ readsAs 0x024 (s.evt.setWidth 32) s) ∧
    (readsAs 0x040 (s.histW.setWidth 32) s ∧ readsAs 0x044 (s.peakThr.setWidth 32) s ∧
      readsAs 0x048 (s.peakSep.setWidth 32) s ∧ readsAs 0x04C (s.cellNs.setWidth 32) s ∧
      readsAs 0x050 (s.crc16Initv.setWidth 32) s) ∧
    (readsAs 0x080 (s.crc16.setWidth 32) s ∧ readsAs 0x084 s.crc32 s ∧ readsAs 0x088 (~~~s.crc32) s ∧
      readsAs 0x08C s.crc32be s ∧ readsAs 0x090 (s.amiacc &&& 0x55555555) s) ∧
    (readsAs 0x0B0 (s.aplsr.setWidth 32) s ∧
      readsAs 0x0B4 (match s.apro with
        | .idle => 0 | .d5Seen => 1 | .aaSeen => 2 | .deSeen => 3 | .deAa => 4) s) ∧
    (readsAs 0x100 s.fluxcnt s ∧ readsAs 0x104 s.histMin s ∧ readsAs 0x108 (s.histNb.setWidth 32) s ∧
      readsAs 0x10C s.histOor s ∧ readsAs 0x120 (s.peakN.setWidth 32) s ∧
      readsAs 0x124 (match s.reading.kind with | .auto => 0 | .mfm => 1 | .fm => 2) s ∧
      readsAs 0x128 s.reading.bitCellNs s ∧
      readsAs 0x12C (match s.reading.rate with | .unknown => 0 | .mfmDd250k => 1 | .mfmHd500k => 2) s) ∧
    (∀ k : Fin 16,
      readsAs (0x200 + 16 * k.val) s.peaks[k].pos s ∧ readsAs (0x204 + 16 * k.val) s.peaks[k].cnt s ∧
      readsAs (0x208 + 16 * k.val) (s.peaks[k].lbl.setWidth 32) s ∧ readsAs (0x20C + 16 * k.val) 0 s) ∧
    (∀ i, i < 1024 →
      readsAs (0x1000 + 4 * i) (if i < s.params.nbins then binCntRead s.mem i else 0) s)

/-- R49 to R52, R55, R59: where the fields of the framers, the encoders and HIST_FLAGS stand in their
views; every other bit reads 0. -/
def Obligations.ViewFieldsRead : Prop :=
  ∀ s : State,
    (∀ x : Nat × Framer, x = (0x0A0, s.mfm) ∨ x = (0x0A4, s.m2) →
      ∃ v, readsAs x.1 v s ∧ v.extractLsb' 0 16 = x.2.sr ∧ v.extractLsb' 16 4 = x.2.phase ∧
        v.extractLsb' 20 2 = x.2.a1cnt ∧ v.getLsbD 22 = x.2.locked ∧ v.getLsbD 23 = x.2.prev ∧
        v.extractLsb' 24 4 = x.2.zrun ∧ v.getLsbD 28 = x.2.err ∧ v.extractLsb' 29 3 = 0) ∧
    (∃ v, readsAs 0x0A8 v s ∧ v.extractLsb' 0 16 = s.fm.sr ∧ v.extractLsb' 16 4 = s.fm.phase ∧
      v.extractLsb' 20 2 = 0 ∧ v.getLsbD 22 = s.fm.locked ∧ v.extractLsb' 23 9 = 0) ∧
    (∃ v, readsAs 0x0AC v s ∧ v.extractLsb' 0 10 = s.g5.acc ∧ v.extractLsb' 10 4 = s.g5.cnt ∧
      v.extractLsb' 14 2 = (match s.g5.mode with | .hunt => 0 | .sync => 1 | .data => 2) ∧
      v.extractLsb' 16 8 = s.g5.ones ∧ v.extractLsb' 24 8 = 0) ∧
    (∃ v, readsAs 0x0B8 v s ∧ v.getLsbD 0 = s.enc.mfmprev ∧ v.getLsbD 1 = s.enc.m2prevd ∧
      v.getLsbD 2 = s.enc.m2prevc ∧ v.getLsbD 3 = s.enc.amiprev ∧ v.extractLsb' 4 28 = 0) ∧
    (∃ v, readsAs 0x110 v s ∧ v.getLsbD 0 = s.histValid ∧ v.getLsbD 1 = s.peaksValid ∧
      v.getLsbD 2 = s.classValid ∧ v.extractLsb' 3 29 = 0)

/-- R34, R37, R40 to R44, R105, R490: an RW register reads back the bits of its named field after a
write, and the write changes no other register's read and nothing that cannot be read. (What becomes of
`pending` and `lastRead` is the model's own, log entries 2 and 3.) -/
def Obligations.RwRegistersKeepNamedBits : Prop :=
  ∀ (s : State) (v mask : Word) (off : Nat), (off, mask) ∈ rwMasks →
    ∃ t, step { s with pending := [.access (.write (BitVec.ofNat 16 off) 4 v)] } = .next t ∧
      readsAs off (v &&& mask) t ∧
      (∀ n x, n < 2 ^ 16 → n ≠ off → readsAs n x s → readsAs n x t) ∧
      t.mem = s.mem ∧ t.amiacc = s.amiacc ∧ t.params = s.params ∧ t.pending = [] ∧ t.lastRead = none

/-- R446: a write to STATUS clears the bits written 1 and changes nothing else. (What becomes of
`pending` and `lastRead` is the model's own, log entries 2 and 3.) -/
def Obligations.StatusWriteClearsBits : Prop :=
  ∀ (s : State) (v : Word) (rest : List HostEvent),
    step { s with pending := .access (.write 0x004 4 v) :: rest } =
      .next { s with pending := rest, lastRead := none, status := s.status &&& ~~~(v.extractLsb' 0 7) }

/-- R445: a STATUS bit that is set stays set over every step that is neither a hardware reset nor a
write of 1 to it. -/
def Obligations.StatusBitsAreSticky : Prop :=
  ∀ (s t : State) (k : Nat), step s = .next t → s.status.getLsbD k = true →
    t.status.getLsbD k = true ∨ (∃ rest, s.pending = .reset :: rest) ∨
    (∃ v rest, s.pending = .access (.write 0x004 4 v) :: rest ∧ v.getLsbD k = true)

/-- R62: the interrupt output is up exactly when a STATUS bit is set and enabled; it is 0 after reset. -/
def Obligations.IrqIsEnabledStatus : Prop :=
  (∀ s : State,
    irq s = true ↔ ∃ k, k < 7 ∧ s.status.getLsbD k = true ∧ s.irqEn.getLsbD k = true) ∧
  irq State.reset = false

/-! ### Reset -/

/-- R481: the reset state, element by element, for every choice of the parameters. -/
def Obligations.ResetStateValues : Prop :=
  State.reset = resetState Params.default ∧ Params.default.idValue = 0x55465445 ∧
  ∀ p : Params,
    let s := resetState p
    (readsAs 0x000 p.idValue s ∧ s.status = 0 ∧ s.errcode = 0 ∧ s.irqEn = 0 ∧ readsAs 0x010 0 s ∧
      s.evt = 0 ∧ s.din0 = 0 ∧ s.din1 = 0 ∧ s.dout0 = 0 ∧ s.dout1 = 0) ∧
    (s.histW = 10 ∧ s.peakThr = 5 ∧ s.peakSep = 500 ∧ s.cellNs = 0 ∧ s.crc16Initv = 0xFFFF) ∧
    (s.crc16 = 0xFFFF ∧ s.crc32 = 0xFFFFFFFF ∧ readsAs 0x088 0 s ∧ s.crc32be = 0xFFFFFFFF ∧
      s.amiacc = 0 ∧ readsAs 0x090 0 s) ∧
    (s.mfm = ⟨0, 0, 0, false, false, 0, false⟩ ∧ s.m2 = ⟨0, 0, 0, false, false, 0, false⟩ ∧
      s.fm = ⟨0, 0, false⟩ ∧ s.g5 = ⟨0, 0, .hunt, 0⟩ ∧ s.aplsr = 0 ∧ s.apro = .idle ∧
      s.enc = ⟨false, false, false, false⟩) ∧
    (s.fluxcnt = 0 ∧ (∀ i, binCntRead s.mem i = 0 ∧ binSumRead s.mem i = 0) ∧
      s.histMin = 0 ∧ s.histNb = 0 ∧ s.histOor = 0 ∧
      s.histValid = false ∧ s.peaksValid = false ∧ s.classValid = false ∧
      s.peakN = 0 ∧ (∀ k : Fin 16, s.peaks[k] = ⟨0, 0, 0⟩) ∧ s.reading = ⟨.auto, 0, .unknown⟩) ∧
    irq s = false

/-- R480, R483, R484: hardware reset takes any state to the reset state; writing the reset values of the
RW registers, `SRST 0xFF` and 0x7F to STATUS gives it too, but for ERRCODE, DOUT0, DOUT1 and the
unreadable entries of the flux memory. (That reset leaves the queue `pending` is the model's own, log
entry 2; which unreadable entries it lists is too, log entry 4.) -/
def Obligations.HardwareAndSoftReset : Prop :=
  (∀ (s : State) (rest : List HostEvent),
    step { s with pending := .reset :: rest } = .next { resetState s.params with pending := rest }) ∧
  ∀ s : State,
    afterEvents
      [writeEvent .crc16Initv 0xFFFF, writeEvent .histW 10, writeEvent .peakThr 5,
        writeEvent .peakSep 500, writeEvent .cellNs 0, writeEvent .irqEn 0, writeEvent .din0 0,
        writeEvent .din1 0, commandEvent (.srst 0xFF), writeEvent .status 0x7F] s =
      some
        { resetState s.params with
          errcode := s.errcode, dout0 := s.dout0, dout1 := s.dout1, mem := ⟨s.mem.flux, [], []⟩ }

/-! ### Control -/

/-- R430, R431, R380: NOP clears EVT alone; SRST resets exactly the units its mask names, CRC16 from
the current CRC16_INITV; FLUX.CLR does to the analyser what mask bit 7 does. -/
def Obligations.ControlAndClearCommands : Prop :=
  ∀ s : State,
    exec .nop s = .next { s with evt := 0 } ∧
    (∀ m : BitVec 8,
      exec (.srst m) s =
        .next
          { s with
            evt := 0
            mfm := if m.getLsbD 0 then ⟨0, 0, 0, false, false, 0, false⟩ else s.mfm
            fm := if m.getLsbD 1 then ⟨0, 0, false⟩ else s.fm
            m2 := if m.getLsbD 2 then ⟨0, 0, 0, false, false, 0, false⟩ else s.m2
            g5 := if m.getLsbD 3 then ⟨0, 0, .hunt, 0⟩ else s.g5
            aplsr := if m.getLsbD 4 then 0 else s.aplsr
            apro := if m.getLsbD 4 then .idle else s.apro
            enc := if m.getLsbD 5 then ⟨false, false, false, false⟩ else s.enc
            crc16 := if m.getLsbD 6 then s.crc16Initv else s.crc16
            crc32 := if m.getLsbD 6 then 0xFFFFFFFF else s.crc32
            crc32be := if m.getLsbD 6 then 0xFFFFFFFF else s.crc32be
            amiacc := if m.getLsbD 6 then 0 else s.amiacc
            fluxcnt := if m.getLsbD 7 then 0 else s.fluxcnt
            mem := if m.getLsbD 7 then ⟨s.mem.flux, [], []⟩ else s.mem
            histMin := if m.getLsbD 7 then 0 else s.histMin
            histNb := if m.getLsbD 7 then 0 else s.histNb
            histOor := if m.getLsbD 7 then 0 else s.histOor
            peakN := if m.getLsbD 7 then 0 else s.peakN
            peaks := if m.getLsbD 7 then Vector.replicate 16 ⟨0, 0, 0⟩ else s.peaks
            reading := if m.getLsbD 7 then ⟨.auto, 0, .unknown⟩ else s.reading
            histValid := !m.getLsbD 7 && s.histValid
            peaksValid := !m.getLsbD 7 && s.peaksValid
            classValid := !m.getLsbD 7 && s.classValid }) ∧
    exec .fluxClr s =
      .next
        { s with
          evt := 0
          fluxcnt := 0
          mem := ⟨s.mem.flux, [], []⟩
          histMin := 0
          histNb := 0
          histOor := 0
          peakN := 0
          peaks := Vector.replicate 16 ⟨0, 0, 0⟩
          reading := ⟨.auto, 0, .unknown⟩
          histValid := false
          peaksValid := false
          classValid := false }

/-! ### Encoders of the clock-data interleaved encodings -/

/-- R205, R206: the word MFM.ENC.BYTE writes carries the byte in its data cells, and each clock bit is
1 exactly when the data bits before and after it are 0; nothing else changes but the previous bit. -/
def Obligations.MfmEncodeByteRule : Prop :=
  ∀ (d : Byte) (s : State), ∃ w : Half,
    exec (.mfmEncByte d) s =
      .next { s with evt := 0, dout0 := w.setWidth 32, enc := { s.enc with mfmprev := d.getLsbD 0 } } ∧
    dat w = d ∧
    ∀ n, n < 8 →
      (clk w).getLsbD n =
        (!(if n = 7 then s.enc.mfmprev else d.getLsbD (n + 1)) && !d.getLsbD n)

/-- R201: the two MFM sync words carry A1 and C2, each is the encoding of its byte less one clock bit,
and read in the reverse cell order they would carry 0x50 and 0x28. -/
def Obligations.MfmSyncWords : Prop :=
  mfmSyncs.map (·.word) = [0x4489, 0x5224] ∧
  dat 0x4489 = 0xA1 ∧ clk 0x4489 = 0x0A ∧ dat 0x5224 = 0xC2 ∧ clk 0x5224 = 0x14 ∧
  (∀ p, (mfmEnc 0xA1 p).1 = 0x44A9 ∧ (mfmEnc 0xC2 p).1 = 0x52A4) ∧
  (0x4489 : Half) = 0x44A9 ^^^ (1 <<< 5) ∧ (0x5224 : Half) = 0x52A4 ^^^ (1 <<< 7) ∧
  dat (BitVec.reverse (0x4489 : Half)) = 0x50 ∧ dat (BitVec.reverse (0x5224 : Half)) = 0x28

/-- R207, R208, R234, R335: the sync words with the previous bit they leave, and the commands that set
an encoder's previous bits. -/
def Obligations.SyncAndPreviousBitCommands : Prop :=
  ∀ (s : State) (b : Bool) (v : BitVec 2),
    exec (.mfmEncSync .a1) s =
      .next { s with evt := 0, dout0 := 0x00004489, enc := { s.enc with mfmprev := true } } ∧
    exec (.mfmEncSync .c2) s =
      .next { s with evt := 0, dout0 := 0x00005224, enc := { s.enc with mfmprev := false } } ∧
    exec (.mfmEncPrev b) s = .next { s with evt := 0, enc := { s.enc with mfmprev := b } } ∧
    exec (.m2fmEncPrev v) s =
      .next { s with evt := 0, enc := { s.enc with m2prevd := v.getLsbD 0, m2prevc := v.getLsbD 1 } } ∧
    exec (.amiEncPrev b) s = .next { s with evt := 0, enc := { s.enc with amiprev := b } }

/-- R220, R222 to R224: FM.ENC.BYTE writes the byte with every clock bit 1, FM.ENC.MARK the mark's data
byte with the mark's clock byte. -/
def Obligations.FmEncodeRule : Prop :=
  ∀ s : State,
    (∀ d : Byte, ∃ w : Half,
      exec (.fmEncByte d) s = .next { s with evt := 0, dout0 := w.setWidth 32 } ∧
      clk w = 0xFF ∧ dat w = d) ∧
    (∀ k : FmMark, ∃ w : Half,
      exec (.fmEncMark k) s = .next { s with evt := 0, dout0 := w.setWidth 32 } ∧
      clk w = (match k with | .idam => 0xC7 | .dam => 0xC7 | .ddam => 0xC7 | .iam => 0xD7) ∧
      dat w = (match k with | .idam => 0xFE | .dam => 0xFB | .ddam => 0xF8 | .iam => 0xFC))

/-- R230, R233: the word M2FM.ENC.BYTE writes carries the byte, and a clock bit is 1 exactly when the
data bit before it, the data bit after it and the clock bit before it are 0. -/
def Obligations.M2fmEncodeByteRule : Prop :=
  ∀ (d : Byte) (s : State), ∃ w : Half,
    exec (.m2fmEncByte d) s =
      .next
        { s with
          evt := 0
          dout0 := w.setWidth 32
          enc := { s.enc with m2prevd := d.getLsbD 0, m2prevc := (clk w).getLsbD 0 } } ∧
    dat w = d ∧
    ∀ n, n < 8 →
      (clk w).getLsbD n =
        (!(if n = 7 then s.enc.m2prevd else d.getLsbD (n + 1)) && !d.getLsbD n &&
          !(if n = 7 then s.enc.m2prevc else (clk w).getLsbD (n + 1)))

/-! ### Framers, cell by cell -/

/-- R203, R204: the effect of one cell on the MFM framer, in the numbers of the spec's pseudocode. -/
def Obligations.MfmCellRule : Prop :=
  ∀ (b : Bool) (s : State),
    let f := s.mfm
    let sr : BitVec 16 := BitVec.ofNat 16 (2 * f.sr.toNat + b.toNat)
    let z : Nat := if b then 0 else min (f.zrun.toNat + 1) 15
    let g : Framer := { f with sr := sr, prev := b, zrun := BitVec.ofNat 4 z }
    let e : Bool := f.err || (f.prev && b) || (!b && decide (4 ≤ z))
    exec (.mfmDecCell b) s =
      .next
        (if sr = 0x4489 then
          { s with
            evt := 0x03
            dout0 := 0xA1
            mfm :=
              { g with
                a1cnt :=
                  if f.locked = true ∧ f.phase = 15 ∧ 1 ≤ f.a1cnt.toNat then
                    BitVec.ofNat 2 (min (f.a1cnt.toNat + 1) 3)
                  else 1
                locked := true
                phase := 0
                err := false } }
        else if sr = 0x5224 ∧ (f.locked = false ∨ f.phase = 15) then
          { s with
            evt := 0x03
            dout0 := 0xC2
            mfm := { g with a1cnt := 0, locked := true, phase := 0, err := false } }
        else if f.locked = false then { s with evt := 0, mfm := g }
        else if f.phase = 15 then
          { s with
            evt :=
              0x01 |||
                (if f.a1cnt = 3 then
                  (if dat sr = 0xFE then 0x04 else if dat sr = 0xFB then 0x08
                    else if dat sr = 0xF8 then 0x0C else 0)
                else 0) |||
                (if e then 0x10 else 0)
            status := if e then s.status ||| 0x20 else s.status
            dout0 := (dat sr).setWidth 32
            mfm := { g with a1cnt := 0, phase := 0, err := false } }
        else { s with evt := 0, mfm := { g with phase := f.phase + 1, err := e } })

/-- R231: the effect of one cell on the M2FM framer: the rule of R203 with the sync words of the
parameter M2FM_SYNC, the first that matches, and runs of 0 cells legal up to four. -/
def Obligations.M2fmCellRule : Prop :=
  ∀ (b : Bool) (s : State),
    let f := s.m2
    let sr : BitVec 16 := BitVec.ofNat 16 (2 * f.sr.toNat + b.toNat)
    let z : Nat := if b then 0 else min (f.zrun.toNat + 1) 15
    let g : Framer := { f with sr := sr, prev := b, zrun := BitVec.ofNat 4 z }
    let e : Bool := f.err || (f.prev && b) || (!b && decide (5 ≤ z))
    exec (.m2fmDecCell b) s =
      .next
        (match
            (s.params.m2fmSync.filter fun x =>
              x.word = sr ∧ (x.isA1 = true ∨ f.locked = false ∨ f.phase = 15)).head? with
        | some x =>
          { s with
            evt := 0x03
            dout0 := x.byte.setWidth 32
            m2 :=
              { g with
                a1cnt :=
                  if x.isA1 = false then 0
                  else if f.locked = true ∧ f.phase = 15 ∧ 1 ≤ f.a1cnt.toNat then
                    BitVec.ofNat 2 (min (f.a1cnt.toNat + 1) 3)
                  else 1
                locked := true
                phase := 0
                err := false } }
        | none =>
          if f.locked = false then { s with evt := 0, m2 := g }
          else if f.phase = 15 then
            { s with
              evt :=
                0x01 |||
                  (if f.a1cnt = 3 then
                    (if dat sr = 0xFE then 0x04 else if dat sr = 0xFB then 0x08
                      else if dat sr = 0xF8 then 0x0C else 0)
                  else 0) |||
                  (if e then 0x10 else 0)
              status := if e then s.status ||| 0x20 else s.status
              dout0 := (dat sr).setWidth 32
              m2 := { g with a1cnt := 0, phase := 0, err := false } }
          else { s with evt := 0, m2 := { g with phase := f.phase + 1, err := e } })

/-- R220, R221: the effect of one cell on the FM framer. -/
def Obligations.FmCellRule : Prop :=
  ∀ (b : Bool) (s : State),
    let f := s.fm
    let sr : BitVec 16 := BitVec.ofNat 16 (2 * f.sr.toNat + b.toNat)
    exec (.fmDecCell b) s =
      .next
        (if sr = 0xF57E then { s with evt := 0x07, dout0 := 0xFE, fm := ⟨sr, 0, true⟩ }
        else if sr = 0xF56F then { s with evt := 0x0B, dout0 := 0xFB, fm := ⟨sr, 0, true⟩ }
        else if sr = 0xF56A then { s with evt := 0x0F, dout0 := 0xF8, fm := ⟨sr, 0, true⟩ }
        else if sr = 0xF77A then { s with evt := 0x03, dout0 := 0xFC, fm := ⟨sr, 0, true⟩ }
        else if f.locked = false then { s with evt := 0, fm := { f with sr := sr } }
        else if f.phase = 15 then
          { s with
            evt := if clk sr = 0xFF then 0x01 else 0x11
            status := if clk sr = 0xFF then s.status else s.status ||| 0x20
            dout0 := (dat sr).setWidth 32
            fm := ⟨sr, 0, true⟩ }
        else { s with evt := 0, fm := ⟨sr, f.phase + 1, true⟩ })

/-- R267: the effect of one cell on the GCR-CBM framer. -/
def Obligations.Gcr5CellRule : Prop :=
  ∀ (b : Bool) (s : State),
    let g := s.g5
    let ones : Nat := if b then min (g.ones.toNat + 1) 255 else 0
    let o : BitVec 8 := BitVec.ofNat 8 ones
    let group : BitVec 10 := BitVec.ofNat 10 (2 * g.acc.toNat + b.toNat)
    exec (.gcr5DecCell b) s =
      .next
        (if b = true ∧ 10 ≤ ones then
          { s with evt := if g.mode = .sync then 0 else 0x02, g5 := ⟨0, 0, .sync, o⟩ }
        else if g.mode = .hunt then { s with evt := 0, g5 := { g with ones := o } }
        else if g.mode = .sync then { s with evt := 0, g5 := ⟨0, 1, .data, o⟩ }
        else if g.cnt.toNat + 1 = 10 then
          { s with
            evt := if (gcr5Word group).2 then 0x11 else 0x01
            status := if (gcr5Word group).2 then s.status ||| 0x20 else s.status
            dout0 := (gcr5Word group).1.setWidth 32
            dout1 := group.setWidth 32
            g5 := ⟨0, 0, .data, o⟩ }
        else { s with evt := 0, g5 := ⟨group, g.cnt + 1, .data, o⟩ })

/-- R297, R296: one cell of the Apple framer; and from an empty shift register a run of bytes with bit 7
set, each followed by any number of 0 cells, is reported byte for byte. -/
def Obligations.AppleCellFramer : Prop :=
  (∀ (b : Bool) (s : State),
    let sr : BitVec 8 := BitVec.ofNat 8 (2 * s.aplsr.toNat + b.toNat)
    exec (.aplDecCell b) s =
      .next
        (if sr.getLsbD 7 then { s with evt := 0x01, dout0 := sr.setWidth 32, aplsr := 0 }
        else { s with evt := 0, aplsr := sr })) ∧
  ∀ (s : State) (l : List (Byte × Nat)), s.aplsr = 0 → (∀ x ∈ l, x.1.getLsbD 7 = true) →
    reports
      ((l.flatMap fun x => cellsOf x.1 ++ List.replicate x.2 false).map .aplDecCell) s =
      l.map fun x => (x.1.setWidth 32, 0x01)

/-! ### Framers, whole streams -/

/-- R209 items 1 and 2: cells of MFM-encoded bytes never hold two adjacent 1 cells, never a run of four
0 cells, and never the A1 sync word at any cell offset. -/
def Obligations.MfmEncodedRuns : Prop :=
  ∀ (p : Bool) (ds : List Byte),
    let cells := cellsOfWords (mfmWords p ds)
    ¬ [true, true] <:+: cells ∧ ¬ List.replicate 4 false <:+: cells ∧
    ¬ cellsOf (0x4489 : Half) <:+: cells

/-- R202, R203 corner case 3: whatever the framer held, after three A1 sync words on end the next encoded
byte is reported without error and with the address-mark kind of its value. For a byte 0x40 to 0x4F the
report is another A1 sync instead (corner case 5): the last nine cells of the sync and the first seven of
the byte, 010001001 0001001, are the word 0x4489 again, and the byte is never completed on its grid. -/
def Obligations.MfmAddressMarkAfterThreeSyncs : Prop :=
  ∀ (s : State) (d : Byte),
    (reports ((cellsOfWords [0x4489, 0x4489, 0x4489, (mfmEnc d true).1]).map .mfmDecCell) s).getLast? =
      some (if d.extractLsb' 4 4 = 4 then (0xA1, 0x03) else
        (d.setWidth 32,
          if d = 0xFE then 0x05 else if d = 0xFB then 0x09 else if d = 0xF8 then 0x0D else 0x01))

/-- R203, R205, R209: what the framer reports of bytes MFM-encoded after an A1 sync, whatever they are.
If the first byte is not one of 0x40 to 0x4F, they are reported byte for byte, without error and without
a spurious sync; the first is examined for an address mark after three A1 syncs or more. If it is one of
0x40 to 0x4F, its seventh cell completes a second A1 sync (see `MfmAddressMarkAfterThreeSyncs`), which
realigns the framer as the first of a new run of syncs (R203 corner case 5): from there on the cells are
read 16 at a time on the new grid, without error, each group as its data byte, or as a C2 sync where it
is 0x5224. -/
def Obligations.MfmStreamDecodes : Prop :=
  ∀ (s : State) (a : BitVec 2) (d : Byte) (ds : List Byte),
    s.mfm = ⟨0x4489, 0, a, true, true, 0, false⟩ →
    let cells := cellsOfWords (mfmWords true (d :: ds))
    let regrid : Nat → Half := fun k => ((cells.drop (7 + 16 * k)).take 16).foldl pushCell 0
    (d.extractLsb' 4 4 ≠ 4 →
      reports (cells.map .mfmDecCell) s =
        (d.setWidth 32, 0x01 ||| (if a = 3 then
            (if d = 0xFE then 0x04 else if d = 0xFB then 0x08 else if d = 0xF8 then 0x0C else 0)
          else 0)) ::
        ds.map fun x => (x.setWidth 32, 0x01)) ∧
    (d.extractLsb' 4 4 = 4 →
      (execAll ((cells.take 7).map .mfmDecCell) s).map (·.mfm) =
        some ⟨0x4489, 0, 1, true, true, 0, false⟩ ∧
      reports (cells.map .mfmDecCell) s =
        (0xA1, 0x03) :: (List.range ds.length).map fun k =>
          ((dat (regrid k)).setWidth 32, if regrid k = 0x5224 then 0x03 else 0x01))

/-- R221, R222, R225 item 1: FM-encoded bytes after a mark are reported byte for byte, without error and
without a spurious mark. -/
def Obligations.FmStreamDecodes : Prop :=
  ∀ (s : State) (k : FmMark) (ds : List Byte),
    s.fm = ⟨(fmMarkRow k).word, 0, true⟩ →
    reports ((cellsOfWords (ds.map fmEnc)).map .fmDecCell) s = ds.map fun x => (x.setWidth 32, 0x01)

/-- R203, R230, R231: for any M2FM_SYNC, a locked framer on the byte grid, its run of 0 cells within the
limit, reports bytes M2FM-encoded after its last two cells byte for byte and never flags one, provided
that no word of M2FM_SYNC occurs in the last 15 cells it holds followed by theirs (where one occurs the
framer may realign, R232); the first byte is examined for an address mark after three A1 syncs or more.
R231 corner case 1: M2FM-encoded cells hold no two adjacent 1 cells and no run of five 0 cells, whatever
the previous bits, and a run of four does occur. -/
def Obligations.M2fmStreamDecodes : Prop :=
  (∀ (s : State) (d : Byte) (ds : List Byte),
    let f := s.m2
    let cells := cellsOfWords (m2fmWords (f.sr.getLsbD 0) (f.sr.getLsbD 1) (d :: ds))
    FramerOk f → f.locked = true → f.phase = 0 → f.err = false → f.zrun.toNat ≤ 3 →
    (∀ e ∈ s.params.m2fmSync, ¬ cellsOf e.word <:+: (cellsOf f.sr).tail ++ cells) →
    reports (cells.map .m2fmDecCell) s =
      (d.setWidth 32, 0x01 ||| (if f.a1cnt = 3 then
          (if d = 0xFE then 0x04 else if d = 0xFB then 0x08 else if d = 0xF8 then 0x0C else 0)
        else 0)) ::
      ds.map fun x => (x.setWidth 32, 0x01)) ∧
  (∀ (pd pc : Bool) (ds : List Byte),
    let cells := cellsOfWords (m2fmWords pd pc ds)
    ¬ [true, true] <:+: cells ∧ ¬ List.replicate 5 false <:+: cells) ∧
  List.replicate 4 false <:+: cellsOfWords (m2fmWords false false [0x02])

/-- R266: cells of GCR-CBM groups hold no run of nine 1 cells (so none of ten, and no sync) and no run
of three 0 cells; the codes of nibbles 0, 1, 4, 5, 8 and C begin with a 0 cell, the others with a 1. -/
def Obligations.Gcr5EncodedRuns : Prop :=
  (∀ ds : List Byte,
    let cells := cellsOfWords (ds.map gcr5EncByte)
    ¬ List.replicate 9 true <:+: cells ∧ ¬ List.replicate 10 true <:+: cells ∧
    ¬ List.replicate 3 false <:+: cells) ∧
  ∀ n : BitVec 4, (gcr5Enc n).getLsbD 4 = false ↔ n.toNat ∈ [0x0, 0x1, 0x4, 0x5, 0x8, 0xC]

/-- R267 corner case 3, R266: out of a sync run, a byte whose high nibble's code begins with a 0 cell and
the bytes after it are reported byte for byte, without error. -/
def Obligations.Gcr5StreamDecodes : Prop :=
  ∀ (s : State) (o : BitVec 8) (d : Byte) (ds : List Byte),
    s.g5 = ⟨0, 0, .sync, o⟩ → 10 ≤ o.toNat →
    (d.extractLsb' 4 4).toNat ∈ [0x0, 0x1, 0x4, 0x5, 0x8, 0xC] →
    reports ((cellsOfWords ((d :: ds).map gcr5EncByte)).map .gcr5DecCell) s =
      (d :: ds).map fun x => (x.setWidth 32, 0x01)

/-! ### GCR tables and commands -/

/-- R260 to R263: GCR5.ENC.NIB writes the nibble's code; GCR5.DEC.CODE inverts it, and a code that is no
nibble's gives 0x10 with a data error. The invalid codes are those R261 lists. -/
def Obligations.Gcr5CodeCommands : Prop :=
  ∀ s : State,
    (∀ n : BitVec 4,
      exec (.gcr5EncNib n) s =
        .next
          { s with
            evt := 0
            dout0 :=
              ([0x0A, 0x0B, 0x12, 0x13, 0x0E, 0x0F, 0x16, 0x17,
                0x09, 0x19, 0x1A, 0x1B, 0x0D, 0x1D, 0x1E, 0x15] : List Word).getD n.toNat 0 } ∧
      exec (.gcr5DecCode (gcr5Enc n)) s = .next { s with evt := 0, dout0 := n.setWidth 32 }) ∧
    ∀ c : BitVec 5,
      ((∀ n, gcr5Enc n ≠ c) ↔ c.toNat ≤ 8 ∨ c.toNat ∈ [0x0C, 0x10, 0x11, 0x14, 0x18, 0x1C, 0x1F]) ∧
      ((∀ n, gcr5Enc n ≠ c) →
        exec (.gcr5DecCode c) s =
          .next { s with evt := 0x10, status := s.status ||| 0x20, dout0 := 0x10 })

/-- R264, R265: a byte is the group of its two nibbles' codes, high nibble first; decoding the group
gives the byte, and an invalid half gives a zero nibble and a data error. -/
def Obligations.Gcr5GroupCommands : Prop :=
  ∀ s : State,
    (∀ d : Byte,
      exec (.gcr5EncByte d) s =
        .next
          { s with
            evt := 0
            dout0 :=
              ((gcr5Enc (d.extractLsb' 4 4)).setWidth 32 <<< 5) |||
                (gcr5Enc (d.extractLsb' 0 4)).setWidth 32 } ∧
      exec (.gcr5DecWord (gcr5EncByte d)) s = .next { s with evt := 0, dout0 := d.setWidth 32 }) ∧
    ∀ c : BitVec 10, (∀ d, gcr5EncByte d ≠ c) →
      ∃ hi lo : BitVec 4,
        exec (.gcr5DecWord c) s =
          .next
            { s with evt := 0x10, status := s.status ||| 0x20, dout0 := (hi ++ lo).setWidth 32 } ∧
        (gcr5Enc hi = c.extractLsb' 5 5 ∨ (hi = 0 ∧ ∀ n, gcr5Enc n ≠ c.extractLsb' 5 5)) ∧
        (gcr5Enc lo = c.extractLsb' 0 5 ∨ (lo = 0 ∧ ∀ n, gcr5Enc n ≠ c.extractLsb' 0 5))

/-- R290, R291: the two Apple tables are the bytes the rules describe, in ascending order. -/
def Obligations.AppleTablesByConstruction : Prop :=
  (a62Table.length = 64 ∧ a62Table.Pairwise (· < ·) ∧
    (∀ x : Byte, x ∈ a62Table ↔
      (x.getLsbD 7 = true ∧
        (∀ k : Fin 6, ¬(x.getLsbD k = false ∧ x.getLsbD (k + 1) = false ∧ x.getLsbD (k + 2) = false)) ∧
        ((List.range 7).countP fun k => !x.getLsbD k && !x.getLsbD (k + 1)) ≤ 1 ∧
        ∃ k : Fin 6, x.getLsbD k = true ∧ x.getLsbD (k + 1) = true)) ∧
    0xD5 ∉ a62Table ∧ 0xAA ∉ a62Table) ∧
  a53Table.length = 32 ∧ a53Table.Pairwise (· < ·) ∧
    ∀ x : Byte, x ∈ a53Table ↔
      (x.getLsbD 7 = true ∧ (∀ k : Fin 7, ¬(x.getLsbD k = false ∧ x.getLsbD (k + 1) = false)) ∧
        x ≠ 0xD5 ∧ x ≠ 0xAA)

/-- R292 to R295: the Apple encoders write the table's byte, the decoders its index, and a byte outside
the table gives 0 with a data error. -/
def Obligations.AppleDiskByteCommands : Prop :=
  ∀ s : State,
    (∀ (v : BitVec 6) (x : Byte), a62Table[v.toNat]? = some x →
      exec (.a62Enc v) s = .next { s with evt := 0, dout0 := x.setWidth 32 } ∧
      exec (.a62Dec x) s = .next { s with evt := 0, dout0 := v.setWidth 32 }) ∧
    (∀ x : Byte, x ∉ a62Table →
      exec (.a62Dec x) s = .next { s with evt := 0x10, status := s.status ||| 0x20, dout0 := 0 }) ∧
    (∀ (v : BitVec 5) (x : Byte), a53Table[v.toNat]? = some x →
      exec (.a53Enc v) s = .next { s with evt := 0, dout0 := x.setWidth 32 } ∧
      exec (.a53Dec x) s = .next { s with evt := 0, dout0 := v.setWidth 32 }) ∧
    (∀ x : Byte, x ∉ a53Table →
      exec (.a53Dec x) s = .next { s with evt := 0x10, status := s.status ||| 0x20, dout0 := 0 })

/-- R298, R299: the transitions of the prologue FSM, first matching line first; from any state, the
third of three bytes reports ADDR_MARK exactly after D5 AA 96 and DATA_MARK exactly after D5 AA AD. -/
def Obligations.PrologueMachine : Prop :=
  (∀ (s : State) (x : Byte),
    exec (.aproStep x) s =
      .next
        (if x = 0xD5 then { s with evt := 0, apro := .d5Seen }
        else if s.apro = .idle ∧ x = 0xDE then { s with evt := 0, apro := .deSeen }
        else if s.apro = .d5Seen ∧ x = 0xAA then { s with evt := 0, apro := .aaSeen }
        else if s.apro = .aaSeen ∧ x = 0x96 then { s with evt := 0x20, apro := .idle }
        else if s.apro = .aaSeen ∧ x = 0xAD then { s with evt := 0x40, apro := .idle }
        else if s.apro = .deSeen ∧ x = 0xAA then { s with evt := 0, apro := .deAa }
        else if s.apro = .deAa ∧ x = 0xEB then { s with evt := 0x60, apro := .idle }
        else { s with evt := 0, apro := .idle })) ∧
  ∀ (s : State) (x y z : Byte), ∃ t,
    execAll [.aproStep x, .aproStep y, .aproStep z] s = some t ∧
    (t.evt = 0x20 ↔ x = 0xD5 ∧ y = 0xAA ∧ z = 0x96) ∧
    (t.evt = 0x40 ↔ x = 0xD5 ∧ y = 0xAA ∧ z = 0xAD) ∧
    (t.evt = 0x60 → x = 0xDE ∧ y = 0xAA ∧ z = 0xEB) ∧
    (s.apro = .idle → x = 0xDE ∧ y = 0xAA ∧ z = 0xEB → t.evt = 0x60)

/-! ### Amiga MFM -/

/-- R330 to R333: AMI.ENC.HALF writes the half's sixteen data bits with the clock cells of the MFM rule;
AMI.ENC.LONG writes what ODD and then EVEN write. -/
def Obligations.AmigaEncoding : Prop :=
  (∀ (h : AmiHalf) (s : State),
    let q := match h with | .odd => 1 | .even => 0
    ∃ w : Word,
      exec (.amiEncHalf h) s =
        .next { s with evt := 0, dout0 := w, enc := { s.enc with amiprev := s.din0.getLsbD q } } ∧
      ∀ k, k < 16 →
        w.getLsbD (2 * k) = s.din0.getLsbD (2 * k + q) ∧
        w.getLsbD (2 * k + 1) =
          (!(if k = 15 then s.enc.amiprev else w.getLsbD (2 * k + 2)) && !w.getLsbD (2 * k))) ∧
  ∀ s : State, ∃ t u,
    exec (.amiEncHalf .odd) s = .next t ∧ exec (.amiEncHalf .even) t = .next u ∧
    exec .amiEncLong s = .next { u with dout0 := t.dout0, dout1 := u.dout0 }

/-- R334: AMI.DEC.LONG takes the odd bits from DIN0 and the even bits from DIN1, whatever the clock
cells, and so inverts AMI.ENC.LONG for every long and every previous bit. -/
def Obligations.AmigaDecodeInvertsEncode : Prop :=
  (∀ s : State, ∃ w : Word,
    exec .amiDecLong s = .next { s with evt := 0, dout0 := w } ∧
    ∀ k, k < 16 →
      w.getLsbD (2 * k + 1) = s.din0.getLsbD (2 * k) ∧ w.getLsbD (2 * k) = s.din1.getLsbD (2 * k)) ∧
  ∀ s : State, ∃ t,
    exec .amiEncLong s = .next t ∧
    exec .amiDecLong { t with din0 := t.dout0, din1 := t.dout1 } =
      .next { t with din0 := t.dout0, din1 := t.dout1, evt := 0, dout0 := s.din0 }

/-- R336 to R338: the accumulator's effect, and the checksum of the two encoded halves of a long, which
depends on the long alone. -/
def Obligations.AmigaChecksum : Prop :=
  (∀ s : State,
    exec .amiCsumClr s = .next { s with evt := 0, amiacc := 0 } ∧
    exec .amiCsumAdd s =
      .next
        { s with
          evt := 0
          amiacc := s.amiacc ^^^ s.din0
          dout0 := (s.amiacc &&& 0x55555555) ^^^ (s.din0 &&& 0x55555555) }) ∧
  ∀ s : State, ∃ t u v w,
    exec .amiEncLong s = .next t ∧
    exec .amiCsumClr t = .next u ∧
    exec .amiCsumAdd { u with din0 := t.dout0 } = .next v ∧
    exec .amiCsumAdd { v with din0 := t.dout1 } = .next w ∧
    w.dout0 = ((s.din0 >>> 1) ^^^ s.din0) &&& 0x55555555

/-! ### CRC -/

/-- R350, R352 to R362: the commands that load a CRC register write it alone; folding a byte is serial
division by the polynomial, one bit at a time: most significant bit first for CRC-16 and the IPF CRC-32,
least significant first for the reflected CRC-32. -/
def Obligations.CrcCommands : Prop :=
  ∀ (s : State) (v : BitVec 16) (b : Byte),
    let c16 : BitVec 16 := (cellsOf b).foldl
      (fun r d => if (r.getLsbD 15 ^^ d) then (r <<< 1) ^^^ 0x1021 else r <<< 1) s.crc16
    let c32 : Word := (cellsOf b).reverse.foldl
      (fun r d => if (r.getLsbD 0 ^^ d) then (r >>> 1) ^^^ 0xEDB88320 else r >>> 1) s.crc32
    let c32be : Word := (cellsOf b).foldl
      (fun r d => if (r.getLsbD 31 ^^ d) then (r <<< 1) ^^^ 0x04C11DB7 else r <<< 1) s.crc32be
    exec .crc16Init s = .next { s with evt := 0, crc16 := s.crc16Initv } ∧
    exec (.crc16Load v) s = .next { s with evt := 0, crc16 := v } ∧
    exec (.crc16Byte b) s = .next { s with evt := 0, crc16 := c16, dout0 := c16.setWidth 32 } ∧
    exec .crc32Init s = .next { s with evt := 0, crc32 := 0xFFFFFFFF } ∧
    exec .crc32Load s = .next { s with evt := 0, crc32 := s.din0 } ∧
    exec (.crc32Byte b) s = .next { s with evt := 0, crc32 := c32, dout0 := c32, dout1 := ~~~c32 } ∧
    exec .crc32beInit s = .next { s with evt := 0, crc32be := 0xFFFFFFFF } ∧
    exec .crc32beLoad s = .next { s with evt := 0, crc32be := s.din0 } ∧
    exec (.crc32beByte b) s = .next { s with evt := 0, crc32be := c32be, dout0 := c32be }

/-- R351: the CRC-16 of the sync bytes and of an ID field, and the test for a good field: folding a
register's own two bytes, high byte first, leaves 0, whatever the register held. -/
def Obligations.Crc16FieldTest : Prop :=
  [0xA1, 0xA1, 0xA1].foldl crc16Byte 0xFFFF = 0xCDB4 ∧
  [0xA1, 0xA1, 0xA1, 0xFE, 0x00, 0x00, 0x01, 0x02].foldl crc16Byte 0xFFFF = 0xCA6F ∧
  [0xCA, 0x6F].foldl crc16Byte 0xCA6F = 0x0000 ∧
  ∀ r : BitVec 16, [r.extractLsb' 8 8, r.extractLsb' 0 8].foldl crc16Byte r = 0

/-- R363: the two CRC-32 variants share one polynomial in opposite bit orders, so each step of one is
the mirror image of the other's; their values for "123456789" differ. -/
def Obligations.Crc32VariantsMirror : Prop :=
  (0xEDB88320 : Word) = BitVec.reverse (0x04C11DB7 : Word) ∧
  (∀ (r : Word) (b : Byte),
    crc32Byte r b = BitVec.reverse (crc32beByte (BitVec.reverse r) (BitVec.reverse b))) ∧
  [0x31, 0x32, 0x33, 0x34, 0x35, 0x36, 0x37, 0x38, 0x39].foldl crc32Byte 0xFFFFFFFF ^^^ 0xFFFFFFFF =
    0xCBF43926 ∧
  [0x31, 0x32, 0x33, 0x34, 0x35, 0x36, 0x37, 0x38, 0x39].foldl crc32beByte 0xFFFFFFFF = 0x0376E6E7

/-! ### The flux analyser -/

/-- R381: FLUX.PUSH stores DIN0 at the next index, counts it and marks every result stale; every other
sample and every bin stay. -/
def Obligations.FluxPushAppends : Prop :=
  ∀ s : State, s.params.legal = true → s.fluxcnt.toNat < s.params.fluxDepth →
    ∃ t, exec .fluxPush s = .next t ∧
      t =
        { s with
          evt := 0
          mem := { s.mem with flux := t.mem.flux }
          fluxcnt := s.fluxcnt + 1
          histValid := false
          peaksValid := false
          classValid := false } ∧
      (∀ i, fluxRead t.mem i = if i = s.fluxcnt.toNat then s.din0 else fluxRead s.mem i) ∧
      fluxSamples t = fluxSamples s ++ [s.din0.toNat]

/-- R382: HIST_MIN is the least sample; the count and the sum of each bin are those of the samples in
its interval; the samples beyond the bin memory are counted in HIST_OOR and set STATUS.HIST_OOR. -/
def Obligations.HistBuildBins : Prop :=
  ∀ s : State, s.params.legal = true → s.fluxcnt.toNat ≤ s.params.fluxDepth → s.fluxcnt ≠ 0 →
    s.histW ≠ 0 →
    let n := s.fluxcnt.toNat
    let w := s.histW.toNat
    let x : Nat → Nat := fun j => (fluxRead s.mem j).toNat
    ∃ t mn mx, exec .histBuild s = .next t ∧
      (∀ j, j < n → mn ≤ x j ∧ x j ≤ mx) ∧ (∃ j, j < n ∧ x j = mn) ∧ (∃ j, j < n ∧ x j = mx) ∧
      t =
        { s with
          evt := 0
          mem := { s.mem with binCnt := t.mem.binCnt, binSum := t.mem.binSum }
          histMin := BitVec.ofNat 32 mn
          histNb := BitVec.ofNat 11 (min s.params.nbins ((mx - mn) / w + 1))
          histOor := t.histOor
          histValid := true
          peaksValid := false
          classValid := false
          status := if t.histOor = 0 then s.status else s.status ||| 0x40 } ∧
      (∀ i,
        let inBin := (List.range n).filter fun j => mn + i * w ≤ x j ∧ x j < mn + (i + 1) * w
        (binCntRead t.mem i).toNat = (if i < s.params.nbins then inBin.length else 0) ∧
        (binSumRead t.mem i).toNat = (if i < s.params.nbins then (inBin.map x).sum else 0)) ∧
      t.histOor.toNat =
        ((List.range n).filter fun j => mn + s.params.nbins * w ≤ x j).length

/-- R381 corner case 3: HIST.BUILD gives the same results for the same samples in another order. -/
def Obligations.HistBuildIgnoresOrder : Prop :=
  ∀ (s : State) (flux : List (Nat × BitVec 32)),
    let s' : State := { s with mem := { s.mem with flux := flux } }
    (fluxSamples s).Perm (fluxSamples s') →
    ∃ t, exec .histBuild s = .next t ∧
      exec .histBuild s' = .next { t with mem := { t.mem with flux := flux } }

/-- R384: the peaks found are candidate bins, at the rounded mean of the samples in their window, at
least PEAK_SEP apart and in ascending position; a candidate left out met a full table or an accepted
peak too near, among the candidates offered before it. -/
def Obligations.PeakFindPeaks : Prop :=
  ∀ s : State, s.histValid = true → s.params.legal = true →
    (∀ i, (binCntRead s.mem i).toNat ≤ s.params.fluxDepth) →
    (∀ i, (binSumRead s.mem i).toNat ≤ (binCntRead s.mem i).toNat * (2 ^ 32 - 1)) →
    let nb := s.histNb.toNat
    let c : Nat → Nat := fun i => if i < nb then (binCntRead s.mem i).toNat else 0
    let near : Nat → List Nat := fun i => (List.range nb).filter fun j => i ≤ j + 2 ∧ j ≤ i + 2
    let num : Nat → Nat := fun i => ((near i).map c).sum
    let tot : Nat → Nat := fun i => ((near i).map fun j => (binSumRead s.mem j).toNat).sum
    let pos : Nat → Nat := fun i => (2 * tot i + num i) / (2 * num i)
    let cand : Nat → Prop := fun i =>
      i < nb ∧ 0 < c i ∧ (i = 0 ∨ c (i - 1) < c i) ∧ c (i + 1) ≤ c i ∧
      ∀ j, j < nb → s.peakThr.toNat * c j < c i * 100
    let before : Nat → Nat → Prop := fun i j =>
      match s.params.peakOrder with
      | .ascending => i < j
      | .byCount => c j < c i ∨ (c j = c i ∧ i < j)
    ∃ t, exec .peakFind s = .next t ∧
      t =
        { s with
          evt := 0
          peakN := t.peakN
          peaks := t.peaks
          peaksValid := true
          classValid := false } ∧
      ∃ bins : List Nat,
        bins.length = t.peakN.toNat ∧ bins.length ≤ s.params.maxPeaks ∧ bins.Nodup ∧
        (∀ i ∈ bins, cand i) ∧
        bins.Pairwise (fun i j => pos i + s.peakSep.toNat ≤ pos j) ∧
        (∀ k : Fin 16, t.peaks[k] =
          match bins[k.val]? with
          | some i => ⟨BitVec.ofNat 32 (pos i), BitVec.ofNat 32 (num i), 0⟩
          | none => ⟨0, 0, 0⟩) ∧
        (∀ i ∈ bins, pos i < 2 ^ 32 ∧ num i < 2 ^ 32) ∧
        ∀ i, cand i → i ∉ bins →
          (bins.length = s.params.maxPeaks ∧ ∀ j ∈ bins, before j i) ∨
          ∃ j ∈ bins, before j i ∧ pos i < pos j + s.peakSep.toNat ∧ pos j < pos i + s.peakSep.toNat

/-- R386, R388: the kind is decided by the exact ratios of the three shortest peaks, the rate by half
the shortest, and each label is the peak's position in half-T units, rounded half up. -/
def Obligations.ClassifyReading : Prop :=
  ∀ s : State, s.peaksValid = true →
    let n := s.peakN.toNat
    let p : Fin 16 → ℚ := fun k => (s.peaks[k].pos.toNat : ℚ)
    ∃ t, exec .classify s = .next t ∧
      t = { s with evt := 0, peaks := t.peaks, reading := t.reading, classValid := true } ∧
      (∀ k : Fin 16, t.peaks[k].pos = s.peaks[k].pos ∧ t.peaks[k].cnt = s.peaks[k].cnt) ∧
      (n = 0 ∨ p 0 = 0 →
        t.reading = ⟨.auto, 0, .unknown⟩ ∧ ∀ k : Fin 16, t.peaks[k].lbl = 0) ∧
      (n ≠ 0 → p 0 ≠ 0 →
        (t.reading.kind = .mfm ↔
          3 ≤ n ∧ 13 / 10 ≤ p 1 / p 0 ∧ p 1 / p 0 ≤ 17 / 10 ∧ 18 / 10 ≤ p 2 / p 0 ∧
          p 2 / p 0 ≤ 22 / 10) ∧
        (t.reading.kind = .fm ↔ n = 2 ∧ 18 / 10 ≤ p 1 / p 0 ∧ p 1 / p 0 ≤ 22 / 10) ∧
        (t.reading.bitCellNs = if t.reading.kind = .auto then (0 : Word) else s.peaks[0].pos) ∧
        (t.reading.rate = .mfmDd250k ↔ t.reading.kind = .mfm ∧ 1500 ≤ p 0 / 2 ∧ p 0 / 2 ≤ 2500) ∧
        (t.reading.rate = .mfmHd500k ↔ t.reading.kind = .mfm ∧ 750 ≤ p 0 / 2 ∧ p 0 / 2 ≤ 1250) ∧
        ∀ k : Fin 16,
          (k.val < n → t.peaks[k].lbl.toNat = min 255 ⌊2 * p k / p 0 + 1 / 2⌋₊) ∧
          (n ≤ k.val → t.peaks[k].lbl = s.peaks[k].lbl))

/-- R390: DOUT0 is the number of cells nearest to the interval, halves rounded up, and at least 1. -/
def Obligations.FluxCellsNearest : Prop :=
  ∀ s : State, s.cellNs ≠ 0 →
    let t := s.din0.toNat
    let c := s.cellNs.toNat
    ∃ m : Word,
      exec .fluxCells s = .next { s with evt := 0, dout0 := m } ∧
      1 ≤ m.toNat ∧
      (m.toNat = 1 ∨ (2 * m.toNat - 1) * c ≤ 2 * t) ∧ 2 * t < (2 * m.toNat + 1) * c

/-- R381, R382, R384, R386, R390, R442 item 4: where a command's own checks reject it, with the effect
of R441; for HIST.BUILD the check of HIST_W comes first. -/
def Obligations.OwnChecksReject : Prop :=
  ∀ s : State,
    let bad : State := { s with evt := 0x80, status := s.status ||| 0x02, errcode := 2 }
    let seq : State := { s with evt := 0x80, status := s.status ||| 0x04, errcode := 3 }
    let full : State := { s with evt := 0x80, status := s.status ||| 0x08, errcode := 4 }
    (s.fluxcnt.toNat = s.params.fluxDepth → exec .fluxPush s = .next full) ∧
    (s.histW = 0 → exec .histBuild s = .next bad) ∧
    (s.histW ≠ 0 → s.fluxcnt = 0 → exec .histBuild s = .next seq) ∧
    (s.histValid = false → exec .peakFind s = .next seq) ∧
    (s.peaksValid = false → exec .classify s = .next seq) ∧
    (s.cellNs = 0 → exec .fluxCells s = .next bad)

/-! ### The whole machine -/

/-- R441: a rejected command, whatever it was, changes EVT, STATUS and ERRCODE and nothing else. -/
def Obligations.RejectionChangesOnlyReport : Prop :=
  ∀ (w : Word) (s t : State), runCommand w s = .next t → t.evt.getLsbD 7 = true →
    ∃ c : Nat, 1 ≤ c ∧ c ≤ 4 ∧
      t =
        { s with
          evt := 0x80
          status := s.status ||| BitVec.ofNat 7 (2 ^ (c - 1))
          errcode := BitVec.ofNat 4 c }

/-- R440, R444: a command is rejected only on the grounds R440 lists; an accepted one leaves ERRCODE
and changes STATUS by DEC_ERR when it emits DEC_ERR and by HIST_OOR when HIST.BUILD counts a sample
out of range. -/
def Obligations.AcceptedCommandReport : Prop :=
  ∀ (i : Instr) (s t : State), exec i s = .next t →
    (t.evt.getLsbD 7 = true ↔
      (i = .fluxPush ∧ s.fluxcnt.toNat = s.params.fluxDepth) ∨
      (i = .histBuild ∧ (s.histW = 0 ∨ s.fluxcnt = 0)) ∨
      (i = .peakFind ∧ s.histValid = false) ∨ (i = .classify ∧ s.peaksValid = false) ∨
      (i = .fluxCells ∧ s.cellNs = 0)) ∧
    (t.evt.getLsbD 7 = false →
      t.errcode = s.errcode ∧
      t.status =
        s.status ||| (if t.evt.getLsbD 4 then 0x20 else 0) |||
          (if i = .histBuild ∧ t.histOor ≠ 0 then 0x40 else 0))

/-- R394: how each event changes the validity flags. -/
def Obligations.ValidityFlagTable : Prop :=
  ∀ (s t : State) (e : HostEvent) (rest : List HostEvent), s.pending = e :: rest → step s = .next t →
    let flags := (t.histValid, t.peaksValid, t.classValid)
    (e = .reset → flags = (false, false, false)) ∧
    (∀ w i, e = .access (.write 0x010 4 w) → decode w = .ok i → t.evt.getLsbD 7 = false →
      flags =
        (match i with
        | .fluxClr => (false, false, false)
        | .srst m =>
          if m.getLsbD 7 then (false, false, false) else (s.histValid, s.peaksValid, s.classValid)
        | .fluxPush => (false, false, false)
        | .histBuild => (true, false, false)
        | .peakFind => (true, true, false)
        | .classify => (s.histValid, true, true)
        | _ => (s.histValid, s.peaksValid, s.classValid)) ∧
      (i = .peakFind → s.histValid = true) ∧ (i = .classify → s.peaksValid = true)) ∧
    (∀ w, e = .access (.write 0x010 4 w) → t.evt.getLsbD 7 = true →
      flags = (s.histValid, s.peaksValid, s.classValid)) ∧
    ((∀ w, e ≠ .access (.write 0x010 4 w)) → e ≠ .reset →
      flags = (s.histValid, s.peaksValid, s.classValid))

/-- R37, R39, R101: what no command changes, and which commands change the internal memories. (`pending`
and `lastRead`, which no command changes either, are the model's own, log entries 2 and 3; `params` stands
for the parameters of R6, log entry 1.) -/
def Obligations.CommandFrame : Prop :=
  ∀ (i : Instr) (s t : State), exec i s = .next t →
    (t.params = s.params ∧ t.irqEn = s.irqEn ∧ t.din0 = s.din0 ∧ t.din1 = s.din1 ∧
      t.histW = s.histW ∧ t.peakThr = s.peakThr ∧ t.peakSep = s.peakSep ∧ t.cellNs = s.cellNs ∧
      t.crc16Initv = s.crc16Initv ∧ t.pending = s.pending ∧ t.lastRead = s.lastRead) ∧
    (∀ j, (i = .fluxPush → j ≠ s.fluxcnt.toNat) → fluxRead t.mem j = fluxRead s.mem j) ∧
    (∀ j, i ≠ .histBuild → i ≠ .fluxClr → (∀ m, m.getLsbD 7 = true → i ≠ .srst m) →
      binCntRead t.mem j = binCntRead s.mem j ∧ binSumRead t.mem j = binSumRead s.mem j)

/-- R494, R64: what a command of one unit answers and leaves in its unit does not depend on the state of
the other units, nor on EVT, STATUS or ERRCODE as they stood before it, and it leaves the other units as
they were. (It does write EVT, R36, and may set STATUS and ERRCODE, R441, R444. SRST, which R494 excepts,
is in `ControlAndClearCommands`.) -/
def Obligations.UnitsIndependent : Prop :=
  ∀ (i : Instr) (a b b' s t : State) (e : BitVec 8) (st : BitVec 7) (er : BitVec 4),
    (∀ m, i ≠ .srst m) →
    let u := unitOf i
    exec i (mixUnits u a b s) = .next t →
    t = mixUnits u t b t ∧
    ∃ st' er',
      exec i (mixUnits u a b' { s with evt := e, status := st, errcode := er }) =
        .next (mixUnits u t b' { t with status := st', errcode := er' })

/-- R139, R140: a line of a host program does what its commands do one after the other, FLUX.PUSHV after
writing DIN0, and these are the commands of every pseudo-instruction: 16 for a cell word, bit 15 first;
`n` for GCR5.DEC.BITS and APL.DEC.BITS, `v[n-1]` first; one per byte for CRC16.BUF, CRC32.BUF and
CRC32BE.BUF, in order; FLUX.PUSH; HIST.BUILD, PEAK.FIND, CLASSIFY; SRST 0xFF. WR and RD are one 4-byte
access at the register's offset. (The queue the accesses come from is the model's own, log entry 2.) -/
def Obligations.PseudoInstructionsRunTheirCommands : Prop :=
  (∀ (l : HostLine) (s : State), s.lastRead = none → (∀ r v, l ≠ .wr r v) → (∀ r, l ≠ .rd r) →
    afterEvents (lineEvents l) s =
      execAll (pseudoCommands l)
        { s with
          pending := []
          din0 := match l with
            | .fluxPushv v => v
            | _ => s.din0 }) ∧
  (∀ w : Half,
    ((pseudoCommands (.mfmDecWord w)).length = 16 ∧ (pseudoCommands (.fmDecWord w)).length = 16 ∧
      (pseudoCommands (.m2fmDecWord w)).length = 16) ∧
    ∀ k, k < 16 →
      (pseudoCommands (.mfmDecWord w))[k]? = some (.mfmDecCell (w.getLsbD (15 - k))) ∧
      (pseudoCommands (.fmDecWord w))[k]? = some (.fmDecCell (w.getLsbD (15 - k))) ∧
      (pseudoCommands (.m2fmDecWord w))[k]? = some (.m2fmDecCell (w.getLsbD (15 - k)))) ∧
  (∀ n v : Nat,
    ((pseudoCommands (.gcr5DecBits n v)).length = n ∧ (pseudoCommands (.aplDecBits n v)).length = n) ∧
    ∀ k, k < n →
      (pseudoCommands (.gcr5DecBits n v))[k]? = some (.gcr5DecCell (v.testBit (n - 1 - k))) ∧
      (pseudoCommands (.aplDecBits n v))[k]? = some (.aplDecCell (v.testBit (n - 1 - k)))) ∧
  (∀ (bytes : List Byte) (k : Nat),
    (pseudoCommands (.crc16Buf bytes))[k]? = bytes[k]?.map .crc16Byte ∧
    (pseudoCommands (.crc32Buf bytes))[k]? = bytes[k]?.map .crc32Byte ∧
    (pseudoCommands (.crc32beBuf bytes))[k]? = bytes[k]?.map .crc32beByte) ∧
  (∀ v, pseudoCommands (.fluxPushv v) = [.fluxPush]) ∧
  pseudoCommands .fluxAnalyze = [.histBuild, .peakFind, .classify] ∧
  pseudoCommands .srstAll = [.srst 0xFF] ∧
  (∀ i, pseudoCommands (.cmd i) = [i]) ∧
  (∀ r v, lineEvents (.wr r v) = [.access (.write (BitVec.ofNat 16 r.offset) 4 v)]) ∧
  ∀ r, lineEvents (.rd r) = [.access (.read (BitVec.ofNat 16 r.offset) 4)]

/-! ### Invariants -/

/-- R49 to R53, R203, R221, R267, R297: every step keeps the framers' invariant. -/
def Obligations.StepKeepsFramersInv : Prop :=
  ∀ s t : State, FramersInv s → step s = .next t → FramersInv t

/-- R6, R56, R57, R381, R382: every step keeps the samples counted written and within FLUX_DEPTH, and the
bins that hold something in use. It also keeps the memories in canonical form (`Memory.wf`), which no rule
of the spec says: that form is the model's own representation of them, log entry 5 (DESIGN CHOICE). -/
def Obligations.StepKeepsMemoryInv : Prop :=
  ∀ s t : State, MemoryInv s → step s = .next t → MemoryInv t

/-- R59 to R61, R382, R384, R386, R394: every step keeps what ties the analyser's results together. -/
def Obligations.StepKeepsAnalyserInv : Prop :=
  ∀ s t : State, MemoryInv s → AnalyserInv s → step s = .next t → AnalyserInv t

/-- R33, R36, R440, R441, R445: every step keeps what ties EVT, STATUS and ERRCODE together. -/
def Obligations.StepKeepsReportInv : Prop :=
  ∀ s t : State, ReportInv s → step s = .next t → ReportInv t

/-- R481: the invariants hold right after reset, the canonical form of the memories that `MemoryInv`
includes (the model's own, log entry 5) among them. -/
def Obligations.InvariantsHoldAtReset : Prop :=
  FramersInv State.reset ∧ MemoryInv State.reset ∧ AnalyserInv State.reset ∧ ReportInv State.reset
end

