-- ==== Sys2Proof/Laws/Memory.lean ====
section
/-! SUPPORT. The laws of the internal memories (spec/10_state.md R56, R57): reads after writes, and the
canonical form that every memory operation keeps. -/

namespace Sys2Proof.Machine

/-! ### Reads after writes -/

theorem cellFind_cellSet {α : Type} (m : List (Nat × α)) (i j : Nat) (v : α) :
    cellFind (cellSet m i v) j = if j = i then some v else cellFind m j := by
  induction m with
  | nil => by_cases h : i = j <;> simp [cellSet, cellFind, h, eq_comm]
  | cons e m ih =>
    obtain ⟨k, u⟩ := e
    simp only [cellSet]
    split
    · by_cases h : j = i
      · simp [cellFind, h]
      · simp [cellFind, h, Ne.symm h]
    · split
      · rename_i h; subst h
        by_cases h : j = i
        · simp [cellFind, h]
        · simp [cellFind, h, Ne.symm h]
      · by_cases h : k = j
        · subst h
          have : ¬ k = i := fun h => by simp_all
          simp [cellFind, this]
        · simp [cellFind, h, ih]

@[simp] theorem cellFind_cellSet_self {α : Type} (m : List (Nat × α)) (i : Nat) (v : α) :
    cellFind (cellSet m i v) i = some v := by simp [cellFind_cellSet]

theorem cellFind_eq_none_of_below {α : Type} {m : List (Nat × α)} {i : Nat}
    (h : ∀ e ∈ m, i < e.1) : cellFind m i = none := by
  induction m with
  | nil => rfl
  | cons e m ih =>
    obtain ⟨k, u⟩ := e
    have hk : i < k := h (k, u) (by simp)
    simp only [cellFind, if_neg hk.ne']
    exact ih fun e he => h e (by simp [he])

theorem rising_cons {α : Type} {e : Nat × α} {m : List (Nat × α)} :
    Rising (e :: m) ↔ (∀ x ∈ m, e.1 < x.1) ∧ Rising m := by
  simp [Rising]

theorem cellFind_cellErase {α : Type} {m : List (Nat × α)} (hm : Rising m) (i j : Nat) :
    cellFind (cellErase m i) j = if j = i then none else cellFind m j := by
  induction m with
  | nil => simp [cellErase, cellFind]
  | cons e m ih =>
    obtain ⟨k, u⟩ := e
    obtain ⟨hk, hm⟩ := rising_cons.1 hm
    simp only [cellErase]
    split
    · rename_i h; subst h
      by_cases h : j = i
      · subst h; simpa using cellFind_eq_none_of_below hk
      · simp [cellFind, h, Ne.symm h]
    · by_cases h : k = j
      · subst h
        have : ¬ k = i := fun h => by simp_all
        simp [cellFind, this]
      · simp [cellFind, h, ih hm]

/-- Reading a bin after a write to one (R11). -/
theorem binRead_binWrite {w : Nat} {m : List (Nat × BitVec w)} (hm : Rising m) (i j : Nat)
    (v : BitVec w) : binRead (binWrite m i v) j = if j = i then v else binRead m j := by
  unfold binWrite binRead
  split
  · rename_i h; subst h
    rw [cellFind_cellErase hm]
    split <;> simp
  · rw [cellFind_cellSet]
    split <;> simp

/-- Reading the flux memory after a write to it (R11): the entry written holds the sample, the others
what they held. -/
theorem fluxRead_fluxWrite (m : Memory) (i j : Nat) (v : BitVec 32) :
    fluxRead (fluxWrite m i v) j = if j = i then v else fluxRead m j := by
  simp only [fluxRead, fluxWrite, cellFind_cellSet]
  split <;> simp

@[simp] theorem binCntRead_fluxWrite (m : Memory) (i j : Nat) (v : BitVec 32) :
    binCntRead (fluxWrite m i v) j = binCntRead m j := rfl

@[simp] theorem binSumRead_fluxWrite (m : Memory) (i j : Nat) (v : BitVec 32) :
    binSumRead (fluxWrite m i v) j = binSumRead m j := rfl

@[simp] theorem binCntRead_binsClear (m : Memory) (j : Nat) : binCntRead (binsClear m) j = 0 := rfl

@[simp] theorem binSumRead_binsClear (m : Memory) (j : Nat) : binSumRead (binsClear m) j = 0 := rfl

@[simp] theorem fluxRead_binsClear (m : Memory) (j : Nat) : fluxRead (binsClear m) j = fluxRead m j :=
  rfl

/-! ### The canonical form -/

theorem mem_cellSet {α : Type} {m : List (Nat × α)} {i : Nat} {v : α} {e : Nat × α}
    (h : e ∈ cellSet m i v) : e = (i, v) ∨ e ∈ m := by
  induction m with
  | nil => simpa [cellSet] using h
  | cons x m ih =>
    obtain ⟨k, u⟩ := x
    simp only [cellSet] at h
    split at h
    · simpa using h
    · split at h
      · rcases List.mem_cons.1 h with h | h
        · exact .inl h
        · exact .inr (List.mem_cons_of_mem _ h)
      · rcases List.mem_cons.1 h with h | h
        · exact .inr (by simp [h])
        · rcases ih h with h | h
          · exact .inl h
          · exact .inr (List.mem_cons_of_mem _ h)

theorem mem_of_mem_cellErase {α : Type} {m : List (Nat × α)} {i : Nat} {e : Nat × α}
    (h : e ∈ cellErase m i) : e ∈ m := by
  induction m with
  | nil => simp [cellErase] at h
  | cons x m ih =>
    obtain ⟨k, u⟩ := x
    simp only [cellErase] at h
    split at h
    · exact List.mem_cons_of_mem _ h
    · rcases List.mem_cons.1 h with h | h
      · simp [h]
      · exact List.mem_cons_of_mem _ (ih h)

theorem rising_cellSet {α : Type} {m : List (Nat × α)} (hm : Rising m) (i : Nat) (v : α) :
    Rising (cellSet m i v) := by
  induction m with
  | nil => simp [cellSet, Rising]
  | cons x m ih =>
    obtain ⟨k, u⟩ := x
    obtain ⟨hk, hr⟩ := rising_cons.1 hm
    simp only [cellSet]
    split
    · rename_i h
      refine rising_cons.2 ⟨fun e he => ?_, hm⟩
      rcases List.mem_cons.1 he with rfl | he
      · exact h
      · exact h.trans (hk e he)
    · split
      · rename_i h; subst h
        exact rising_cons.2 ⟨hk, hr⟩
      · refine rising_cons.2 ⟨fun e he => ?_, ih hr⟩
        rcases mem_cellSet he with rfl | he
        · show k < i
          omega
        · exact hk e he

theorem rising_cellErase {α : Type} {m : List (Nat × α)} (hm : Rising m) (i : Nat) :
    Rising (cellErase m i) := by
  induction m with
  | nil => simp [cellErase, Rising]
  | cons x m ih =>
    obtain ⟨k, u⟩ := x
    obtain ⟨hk, hr⟩ := rising_cons.1 hm
    simp only [cellErase]
    split
    · exact hr
    · exact rising_cons.2 ⟨fun e he => hk e (mem_of_mem_cellErase he), ih hr⟩

/-- A write of a bin keeps the bins in canonical form. -/
theorem canonical_binWrite {w : Nat} {m : List (Nat × BitVec w)} (hr : Rising m) (hz : NoZero m)
    (i : Nat) (v : BitVec w) : Rising (binWrite m i v) ∧ NoZero (binWrite m i v) := by
  unfold binWrite
  split
  · exact ⟨rising_cellErase hr i, fun e he => hz e (mem_of_mem_cellErase he)⟩
  · rename_i hv
    refine ⟨rising_cellSet hr i v, fun e he => ?_⟩
    rcases mem_cellSet he with rfl | he
    · exact hv
    · exact hz e he

/-- `FluxWrite` keeps the memories in canonical form. -/
theorem wf_fluxWrite {m : Memory} (h : m.wf) (i : Nat) (v : BitVec 32) : (fluxWrite m i v).wf :=
  ⟨rising_cellSet h.1 i v, h.2⟩

/-- Clearing the bins keeps the memories in canonical form. -/
theorem wf_binsClear {m : Memory} (h : m.wf) : (binsClear m).wf := by
  refine ⟨h.1, ?_⟩
  simp [binsClear, Rising]

/-- The memory right after reset is in canonical form. -/
theorem wf_reset : State.reset.mem.wf := by
  simp [State.reset, resetState, Rising]

/-- Two canonical lists of bins that read alike are equal. -/
theorem bins_ext {w : Nat} {m m' : List (Nat × BitVec w)} (hr : Rising m) (hz : NoZero m)
    (hr' : Rising m') (hz' : NoZero m') (h : ∀ i, binRead m i = binRead m' i) : m = m' := by
  have none_below {l : List (Nat × BitVec w)} {i : Nat} (hl : ∀ e ∈ l, i < e.1) : binRead l i = 0 := by
    simp [binRead, cellFind_eq_none_of_below hl]
  have head {k : Nat} {u : BitVec w} {l : List (Nat × BitVec w)} : binRead ((k, u) :: l) k = u := by
    simp [binRead, cellFind]
  induction m generalizing m' with
  | nil =>
    cases m' with
    | nil => rfl
    | cons e l =>
      obtain ⟨k, u⟩ := e
      exact absurd ((h k).symm.trans rfl) (by rw [head]; exact hz' (k, u) (by simp))
  | cons e l ih =>
    obtain ⟨k, u⟩ := e
    obtain ⟨hk, hr⟩ := rising_cons.1 hr
    have hu : u ≠ 0 := hz (k, u) (by simp)
    cases m' with
    | nil => exact absurd ((h k).trans rfl) (by rw [head]; exact hu)
    | cons e' l' =>
      obtain ⟨k', u'⟩ := e'
      obtain ⟨hk', hrl'⟩ := rising_cons.1 hr'
      have hu' : u' ≠ 0 := hz' (k', u') (by simp)
      have hkk : k = k' := by
        rcases lt_trichotomy k k' with hlt | heq | hgt
        · have := h k
          rw [head, none_below] at this
          · exact absurd this hu
          · intro e he
            rcases List.mem_cons.1 he with rfl | he
            · exact hlt
            · exact hlt.trans (hk' e he)
        · exact heq
        · have := h k'
          rw [head, none_below] at this
          · exact absurd this.symm hu'
          · intro e he
            rcases List.mem_cons.1 he with rfl | he
            · exact hgt
            · exact hgt.trans (hk e he)
      subst hkk
      have huu : u = u' := by have := h k; rwa [head, head] at this
      subst huu
      have hll : l = l' := by
        refine ih hr (fun e he => hz e (by simp [he])) hrl' (fun e he => hz' e (by simp [he])) fun i => ?_
        by_cases hi : k = i
        · subst hi; rw [none_below hk, none_below hk']
        · have := h i
          simpa [binRead, cellFind, hi] using this
      rw [hll]

end Sys2Proof.Machine
end

