-- ==== Sys2Proof/Laws/Flux.lean ====
section
/-! SUPPORT. What each shared operation of the flux analyser (spec/45_flux_analyser.md R382 to R390) can
do: the least and greatest samples, one turn of the histogram loop, one turn of the peak loop, the peak
table and its labels. -/

namespace Sys2Proof.Machine

open Sys2Proof.Config

/-! ### Samples -/

@[simp] theorem fluxSamples_length (s : State) : (fluxSamples s).length = s.fluxcnt.toNat := by
  simp [fluxSamples]

theorem fluxSamples_getElem (s : State) (j : Nat) (h : j < (fluxSamples s).length) :
    (fluxSamples s)[j] = (fluxRead s.mem j).toNat := by simp [fluxSamples]

theorem foldl_min_le (l : List Nat) (a : Nat) :
    l.foldl min a ≤ a ∧ ∀ x ∈ l, l.foldl min a ≤ x := by
  induction l generalizing a with
  | nil => simp
  | cons b l ih =>
    obtain ⟨h1, h2⟩ := ih (min a b)
    refine ⟨h1.trans (min_le_left _ _), fun x hx => ?_⟩
    rcases List.mem_cons.1 hx with rfl | hx
    · exact h1.trans (min_le_right _ _)
    · exact h2 x hx

theorem foldl_min_mem (l : List Nat) (a : Nat) : l.foldl min a = a ∨ l.foldl min a ∈ l := by
  induction l generalizing a with
  | nil => simp
  | cons b l ih =>
    rcases ih (min a b) with h | h
    · rcases min_choice a b with hm | hm
      · exact .inl (by simp only [List.foldl_cons]; rw [h, hm])
      · exact .inr (by simp only [List.foldl_cons]; rw [h, hm]; simp)
    · exact .inr (List.mem_cons_of_mem _ h)

/-- R382 `mn`: a least sample. -/
theorem leastSample_spec {l : List Nat} (hl : l ≠ []) :
    leastSample l ∈ l ∧ ∀ x ∈ l, leastSample l ≤ x := by
  obtain ⟨a, l, rfl⟩ := List.exists_cons_of_ne_nil hl
  have hle := foldl_min_le l a
  constructor
  · rcases foldl_min_mem l a with h | h
    · simp [leastSample, h]
    · exact List.mem_cons_of_mem _ (by simpa [leastSample] using h)
  · intro x hx
    rcases List.mem_cons.1 hx with rfl | hx
    · simpa [leastSample] using hle.1
    · simpa [leastSample] using hle.2 x hx

theorem foldl_max_ge (l : List Nat) (a : Nat) :
    a ≤ l.foldl max a ∧ ∀ x ∈ l, x ≤ l.foldl max a := by
  induction l generalizing a with
  | nil => simp
  | cons b l ih =>
    obtain ⟨h1, h2⟩ := ih (max a b)
    refine ⟨(le_max_left _ _).trans h1, fun x hx => ?_⟩
    rcases List.mem_cons.1 hx with rfl | hx
    · exact (le_max_right _ _).trans h1
    · exact h2 x hx

theorem foldl_max_mem (l : List Nat) (a : Nat) : l.foldl max a = a ∨ l.foldl max a ∈ l := by
  induction l generalizing a with
  | nil => simp
  | cons b l ih =>
    rcases ih (max a b) with h | h
    · rcases max_choice a b with hm | hm
      · exact .inl (by simp only [List.foldl_cons]; rw [h, hm])
      · exact .inr (by simp only [List.foldl_cons]; rw [h, hm]; simp)
    · exact .inr (List.mem_cons_of_mem _ h)

/-- R382 `mx`: a greatest sample. -/
theorem greatestSample_spec {l : List Nat} (hl : l ≠ []) :
    greatestSample l ∈ l ∧ ∀ x ∈ l, x ≤ greatestSample l := by
  refine ⟨?_, (foldl_max_ge l 0).2⟩
  rcases foldl_max_mem l 0 with h | h
  · obtain ⟨a, l, rfl⟩ := List.exists_cons_of_ne_nil hl
    have ha : a ≤ (a :: l).foldl max 0 := (foldl_max_ge (a :: l) 0).2 a (by simp)
    have h0 : a = 0 := by omega
    show (a :: l).foldl max 0 ∈ a :: l
    rw [h, h0]; simp
  · exact h

/-! ### One turn of the histogram loop -/

theorem binSample_inRange {nbins w mn : Nat} {b : Bins} {v : Nat} (h : (v - mn) / w < nbins) :
    binSample nbins w mn b v =
      { b with
        cnt := binWrite b.cnt ((v - mn) / w) (binRead b.cnt ((v - mn) / w) + 1)
        sum := binWrite b.sum ((v - mn) / w) (binRead b.sum ((v - mn) / w) + BitVec.ofNat 64 v) } := by
  simp [binSample, h]

theorem binSample_outOfRange {nbins w mn : Nat} {b : Bins} {v : Nat} (h : ¬(v - mn) / w < nbins) :
    binSample nbins w mn b v = { b with oor := b.oor + 1 } := by
  simp [binSample, h]

/-- The bins stay in canonical form through the loop. -/
theorem binSamples_canonical (nbins w mn : Nat) (l : List Nat) :
    (Rising (binSamples nbins w mn l).cnt ∧ NoZero (binSamples nbins w mn l).cnt) ∧
    Rising (binSamples nbins w mn l).sum ∧ NoZero (binSamples nbins w mn l).sum := by
  have key : ∀ (b : Bins), ((Rising b.cnt ∧ NoZero b.cnt) ∧ Rising b.sum ∧ NoZero b.sum) →
      ((Rising (l.foldl (binSample nbins w mn) b).cnt ∧ NoZero (l.foldl (binSample nbins w mn) b).cnt) ∧
        Rising (l.foldl (binSample nbins w mn) b).sum ∧
        NoZero (l.foldl (binSample nbins w mn) b).sum) := by
    induction l with
    | nil => exact fun b h => h
    | cons v l ih =>
      intro b h
      refine ih _ ?_
      by_cases hv : (v - mn) / w < nbins
      · rw [binSample_inRange hv]
        exact ⟨canonical_binWrite h.1.1 h.1.2 _ _, canonical_binWrite h.2.1 h.2.2 _ _⟩
      · rw [binSample_outOfRange hv]; exact h
  exact key _ (by simp [Rising])

/-- No more samples are out of range than there are samples. -/
theorem binSamples_oor_le (nbins w mn : Nat) (l : List Nat) : (binSamples nbins w mn l).oor ≤ l.length := by
  have key : ∀ b : Bins, (l.foldl (binSample nbins w mn) b).oor ≤ b.oor + l.length := by
    induction l with
    | nil => simp
    | cons v l ih =>
      intro b
      refine (ih _).trans ?_
      by_cases hv : (v - mn) / w < nbins
      · rw [binSample_inRange hv]; simp
      · rw [binSample_outOfRange hv]; simp; omega
  simpa [binSamples] using key ⟨[], [], 0⟩

/-! ### One turn of the peak loop -/

/-- A peak is appended exactly when the table has room and no accepted peak is nearer than `sep`. -/
theorem acceptPeak_cases (maxPeaks sep : Nat) (acc : List Peak) (p : Peak) :
    (acc.length < maxPeaks ∧ (∀ q ∈ acc, sep ≤ distance p.pos q.pos) ∧
      acceptPeak maxPeaks sep acc p = acc ++ [p]) ∨
    ((maxPeaks ≤ acc.length ∨ ∃ q ∈ acc, distance p.pos q.pos < sep) ∧
      acceptPeak maxPeaks sep acc p = acc) := by
  unfold acceptPeak
  split
  · rename_i h; exact .inl ⟨h.1, h.2, rfl⟩
  · rename_i h
    refine .inr ⟨?_, rfl⟩
    by_cases hl : acc.length < maxPeaks
    · right; by_contra hc; push Not at hc; exact h ⟨hl, hc⟩
    · left; omega

theorem acceptPeak_length_le {maxPeaks sep : Nat} {acc : List Peak} (p : Peak)
    (h : acc.length ≤ maxPeaks) : (acceptPeak maxPeaks sep acc p).length ≤ maxPeaks := by
  rcases acceptPeak_cases maxPeaks sep acc p with ⟨hl, _, he⟩ | ⟨_, he⟩ <;> rw [he]
  · simp; omega
  · exact h

/-- R384 corner case 5: at most MAXPEAKS peaks are kept. -/
theorem findPeaks_length_le (s : State) : (findPeaks s).length ≤ s.params.maxPeaks := by
  have key : ∀ (l acc : List Peak), acc.length ≤ s.params.maxPeaks →
      (l.foldl (acceptPeak s.params.maxPeaks s.peakSep.toNat) acc).length ≤ s.params.maxPeaks := by
    intro l
    induction l with
    | nil => exact fun acc h => h
    | cons p l ih => exact fun acc h => ih _ (acceptPeak_length_le p h)
  simpa [findPeaks] using key _ [] (Nat.zero_le _)

/-- The distance of two positions, as an absolute difference. -/
theorem distance_eq (a b : Nat) : distance a b = if a ≤ b then b - a else a - b := by
  unfold distance; split <;> omega

/-! ### The peak table -/

theorem peakTable_getElem (l : List Peak) (k : Nat) (hk : k < 16) :
    (peakTable l)[k] =
      match l[k]? with
      | some p => ⟨BitVec.ofNat 32 p.pos, BitVec.ofNat 32 p.cnt, 0⟩
      | none => .zero := by
  cases h : l[k]? <;> simp [peakTable, h]

theorem relabel_getElem (f : Nat → BitVec 32 → BitVec 8 → BitVec 8) (t : Vector PeakEntry 16) (k : Nat)
    (hk : k < 16) : (relabel f t)[k] = { t[k] with lbl := f k t[k].pos t[k].lbl } := by
  simp [relabel]

theorem peakPos_of_lt (s : State) {k : Nat} (hk : k < 16) : peakPos s k = s.peaks[k].pos.toNat := by
  simp [peakPos, hk]

/-! ### The quantiser -/

theorem one_le_fluxCells (t c : Nat) : 1 ≤ fluxCells t c := le_max_left _ _

end Sys2Proof.Machine
end

