-- ==== Sys2Proof/Laws/Ops.lean ====
section
/-! SUPPORT. For each shared operation one lemma that says once everything it can do: the framers' cell
steps, the soft reset, serving an access, and the step. -/

namespace Sys2Proof.Machine

open Sys2Proof.Config

/-! ### Framers -/

/-- A cell in the MFM or M2FM framer (R203): a sync, a cell while unlocked, the last cell of a byte, or a
cell inside a byte. -/
theorem framerStep_cases (syncs : List SyncEntry) (zmax : Nat) (f : Framer) (b : Bool) :
    (∃ e, e ∈ syncs ∧ syncMatch syncs f (pushCell f.sr b) = some e ∧ e.word = pushCell f.sr b ∧
      (e.isA1 = true ∨ f.locked = false ∨ f.phase = 15) ∧
      framerStep syncs zmax f b =
        ⟨⟨pushCell f.sr b, 0, a1Count f e.isA1, true, b, zeroRun f.zrun b, false⟩, some e.byte,
          { byteReady := true, syncDet := true }⟩) ∨
    (syncMatch syncs f (pushCell f.sr b) = none ∧ f.locked = false ∧
      framerStep syncs zmax f b =
        ⟨{ f with sr := pushCell f.sr b, prev := b, zrun := zeroRun f.zrun b }, none, {}⟩) ∨
    (syncMatch syncs f (pushCell f.sr b) = none ∧ f.locked = true ∧ f.phase = 15 ∧
      framerStep syncs zmax f b =
        ⟨⟨pushCell f.sr b, 0, 0, true, b, zeroRun f.zrun b, false⟩, some (dat (pushCell f.sr b)),
          { byteReady := true
            amKind := if f.a1cnt = 3 then amkind (dat (pushCell f.sr b)) else .notAm
            decErr := f.err || violation zmax f b }⟩) ∨
    (syncMatch syncs f (pushCell f.sr b) = none ∧ f.locked = true ∧ f.phase ≠ 15 ∧
      framerStep syncs zmax f b =
        ⟨⟨pushCell f.sr b, f.phase + 1, f.a1cnt, true, b, zeroRun f.zrun b,
            f.err || violation zmax f b⟩, none, {}⟩) := by
  cases hm : syncMatch syncs f (pushCell f.sr b) with
  | some e =>
    refine .inl ⟨e, List.mem_of_find?_eq_some hm, rfl, ?_, ?_, by simp [framerStep, hm]⟩
    · have := List.find?_some hm; simp at this; exact this.1
    · have := List.find?_some hm; simp at this; tauto
  | none =>
    obtain ⟨sr, phase, a1cnt, locked, prev, zrun, err⟩ := f
    cases locked with
    | false => exact .inr (.inl ⟨rfl, rfl, by simp [framerStep, hm]⟩)
    | true =>
      by_cases hp : phase = 15
      · subst hp
        exact .inr (.inr (.inl ⟨rfl, rfl, rfl, by simp only [framerStep, hm]; rfl⟩))
      · exact .inr (.inr (.inr ⟨rfl, rfl, hp, by simp only [framerStep, hm, if_neg hp]; rfl⟩))

@[simp] theorem framerStep_sr (syncs : List SyncEntry) (zmax : Nat) (f : Framer) (b : Bool) :
    (framerStep syncs zmax f b).framer.sr = pushCell f.sr b := by
  rcases framerStep_cases syncs zmax f b with ⟨e, _, _, _, _, h⟩ | ⟨_, _, h⟩ | ⟨_, _, _, h⟩ | ⟨_, _, _, h⟩ <;>
    rw [h]

@[simp] theorem framerStep_prev (syncs : List SyncEntry) (zmax : Nat) (f : Framer) (b : Bool) :
    (framerStep syncs zmax f b).framer.prev = b := by
  rcases framerStep_cases syncs zmax f b with ⟨e, _, _, _, _, h⟩ | ⟨_, _, h⟩ | ⟨_, _, _, h⟩ | ⟨_, _, _, h⟩ <;>
    rw [h]

@[simp] theorem framerStep_zrun (syncs : List SyncEntry) (zmax : Nat) (f : Framer) (b : Bool) :
    (framerStep syncs zmax f b).framer.zrun = zeroRun f.zrun b := by
  rcases framerStep_cases syncs zmax f b with ⟨e, _, _, _, _, h⟩ | ⟨_, _, h⟩ | ⟨_, _, _, h⟩ | ⟨_, _, _, h⟩ <;>
    rw [h]

/-- R203 corner case 9: a cell never unlocks a framer. -/
theorem framerStep_stays_locked (syncs : List SyncEntry) (zmax : Nat) (f : Framer) (b : Bool)
    (hf : f.locked = true) : (framerStep syncs zmax f b).framer.locked = true := by
  rcases framerStep_cases syncs zmax f b with
    ⟨e, _, _, _, _, h⟩ | ⟨_, hl, _⟩ | ⟨_, _, _, h⟩ | ⟨_, _, _, h⟩
  · rw [h]
  · simp [hf] at hl
  · rw [h]
  · rw [h]

/-- R203 `zrun'` as a natural. -/
theorem zeroRun_toNat (z : BitVec 4) (b : Bool) :
    (zeroRun z b).toNat = if b then 0 else min (z.toNat + 1) 15 := by
  revert z b; decide

/-- A cell in the FM framer (R221): a mark, a cell while unlocked, the last cell of a byte, or a cell
inside a byte. -/
theorem fmFramerStep_cases (f : FmFramer) (b : Bool) :
    (∃ k : FmMark, (fmMarkRow k).word = pushCell f.sr b ∧
      fmFramerStep f b =
        ⟨⟨pushCell f.sr b, 0, true⟩, some (fmMarkRow k).byte,
          { byteReady := true, syncDet := true, amKind := (fmMarkRow k).amKind }⟩) ∨
    ((∀ k, (fmMarkRow k).word ≠ pushCell f.sr b) ∧
      ((f.locked = false ∧ fmFramerStep f b = ⟨{ f with sr := pushCell f.sr b }, none, {}⟩) ∨
      (f.locked = true ∧ f.phase = 15 ∧
        fmFramerStep f b =
          ⟨⟨pushCell f.sr b, 0, true⟩, some (dat (pushCell f.sr b)),
            { byteReady := true, decErr := clk (pushCell f.sr b) != 0xFF }⟩) ∨
      (f.locked = true ∧ f.phase ≠ 15 ∧
        fmFramerStep f b = ⟨⟨pushCell f.sr b, f.phase + 1, true⟩, none, {}⟩))) := by
  cases hm : fmMarks.find? fun m => m.word == pushCell f.sr b with
  | some m =>
    have hmem := List.mem_of_find?_eq_some hm
    have hw := List.find?_some hm
    obtain ⟨k, hk⟩ : ∃ k, fmMarkRow k = m := by
      simp [fmMarks] at hmem
      rcases hmem with h | h | h | h <;> exact ⟨_, h.symm⟩
    subst hk
    exact .inl ⟨k, by simpa using hw, by simp [fmFramerStep, hm]⟩
  | none =>
    refine .inr ⟨fun k => ?_, ?_⟩
    · have := List.find?_eq_none.1 hm (fmMarkRow k) (by cases k <;> simp [fmMarks])
      simpa using this
    · obtain ⟨sr, phase, locked⟩ := f
      cases locked with
      | false => exact .inl ⟨rfl, by simp [fmFramerStep, hm]⟩
      | true =>
        by_cases hp : phase = 15
        · subst hp
          exact .inr (.inl ⟨rfl, rfl, by simp only [fmFramerStep, hm]; rfl⟩)
        · exact .inr (.inr ⟨rfl, hp, by simp only [fmFramerStep, hm, if_neg hp]; rfl⟩)

/-- R267 `ones'` as a natural. -/
theorem oneRun_toNat (o : BitVec 8) (b : Bool) :
    (oneRun o b).toNat = if b then min (o.toNat + 1) 255 else 0 := by
  unfold oneRun
  cases b with
  | false => rfl
  | true =>
    have := o.isLt
    by_cases h : o = 255
    · subst h; rfl
    · have h' : o.toNat ≠ 255 := fun h' => h (by apply BitVec.eq_of_toNat_eq; simpa using h')
      simp only [if_true, if_neg h, BitVec.toNat_add]
      simp
      omega

/-- A cell in the GCR-CBM framer (R267): inside a sync run, while hunting, the end of a sync, the last
cell of a group, or a cell inside a group. -/
theorem gcr5FramerStep_cases (f : Gcr5Framer) (b : Bool) :
    (b = true ∧ 10 ≤ (oneRun f.ones b).toNat ∧
      gcr5FramerStep f b =
        ⟨⟨0, 0, .sync, oneRun f.ones b⟩, none, { syncDet := f.mode != .sync }⟩) ∨
    (¬(b = true ∧ 10 ≤ (oneRun f.ones b).toNat) ∧
      ((f.mode = .hunt ∧ gcr5FramerStep f b = ⟨{ f with ones := oneRun f.ones b }, none, {}⟩) ∨
      (f.mode = .sync ∧ gcr5FramerStep f b = ⟨⟨0, 1, .data, oneRun f.ones b⟩, none, {}⟩) ∨
      (f.mode = .data ∧ f.cnt.toNat = 9 ∧
        gcr5FramerStep f b =
          ⟨⟨0, 0, .data, oneRun f.ones b⟩,
            some ((gcr5Word (pushCell f.acc b)).1, pushCell f.acc b),
            { byteReady := true, decErr := (gcr5Word (pushCell f.acc b)).2 }⟩) ∨
      (f.mode = .data ∧ f.cnt.toNat ≠ 9 ∧
        gcr5FramerStep f b =
          ⟨⟨pushCell f.acc b, f.cnt + 1, .data, oneRun f.ones b⟩, none, {}⟩))) := by
  by_cases hs : b = true ∧ 10 ≤ (oneRun f.ones b).toNat
  · refine .inl ⟨hs.1, hs.2, ?_⟩
    simp [gcr5FramerStep, hs.1, hs.1 ▸ hs.2]
  · refine .inr ⟨hs, ?_⟩
    have hs' : (b && decide (10 ≤ (oneRun f.ones b).toNat)) = false := by
      simpa [Bool.and_eq_false_iff] using hs
    obtain ⟨acc, cnt, mode, ones⟩ := f
    cases mode with
    | hunt => exact .inl ⟨rfl, by simp only [gcr5FramerStep, hs']; rfl⟩
    | sync => exact .inr (.inl ⟨rfl, by simp only [gcr5FramerStep, hs']; rfl⟩)
    | data =>
      by_cases hc : cnt.toNat = 9
      · exact .inr (.inr (.inl ⟨rfl, hc, by simp only [gcr5FramerStep, hs']; simp [hc]⟩))
      · exact .inr (.inr (.inr ⟨rfl, hc, by simp only [gcr5FramerStep, hs']; simp [hc]⟩))

/-! ### The soft reset (R431) -/

/-- A line of R431's table, seen through any view of the state. -/
theorem srstLine_view {α : Type} (p : State → α) (mask : BitVec 8) (bit : Nat) (f : State → State)
    (s : State) : p (srstLine mask bit f s) = if mask.getLsbD bit then p (f s) else p s := by
  unfold srstLine; split <;> rfl

/-- A soft reset leaves whatever none of its lines touches. -/
theorem softReset_frame {α : Type} (p : State → α) (mask : BitVec 8) (s : State)
    (h7 : ∀ s, p (analyserClear s) = p s) (h6 : ∀ s, p (crcClear s) = p s)
    (h5 : ∀ s : State, p { s with enc := .cleared } = p s) (h4 : ∀ s, p (appleClear s) = p s)
    (h3 : ∀ s : State, p { s with g5 := .cleared } = p s)
    (h2 : ∀ s : State, p { s with m2 := .cleared } = p s)
    (h1 : ∀ s : State, p { s with fm := .cleared } = p s)
    (h0 : ∀ s : State, p { s with mfm := .cleared } = p s) : p (softReset mask s) = p s := by
  simp [softReset, srstLine_view p, h0, h1, h2, h3, h4, h5, h6, h7]

/-! ### Commands and accesses -/

/-- No command ends a run: every one answers a next state (R447, R497). -/
theorem exec_next (i : Instr) (s : State) : ∃ t, exec i s = .next t := by
  cases i
  case mfmEncSync k => cases k <;> exact ⟨_, rfl⟩
  case aplDecCell b => simp only [exec, execAplDecCell]; split <;> exact ⟨_, rfl⟩
  case fluxPush => simp only [exec, execFluxPush]; split <;> exact ⟨_, rfl⟩
  case histBuild =>
    simp only [exec, execHistBuild]
    split
    · exact ⟨_, rfl⟩
    · split <;> exact ⟨_, rfl⟩
  case peakFind => simp only [exec, execPeakFind]; split <;> exact ⟨_, rfl⟩
  case classify => simp only [exec, execClassify]; split <;> exact ⟨_, rfl⟩
  case fluxCells => simp only [exec, execFluxCells]; split <;> exact ⟨_, rfl⟩
  all_goals exact ⟨_, rfl⟩

theorem runCommand_ok {w : Word} {i : Instr} (h : decode w = .ok i) (s : State) :
    runCommand w s = exec i s := by simp [runCommand, h]

theorem runCommand_error {w : Word} {e : DecodeError} (h : decode w = .error e) (s : State) :
    runCommand w s = .next (reject (rejectCode e) s) := by simp [runCommand, h]

theorem runCommand_next (w : Word) (s : State) : ∃ t, runCommand w s = .next t := by
  cases h : decode w with
  | ok i => rw [runCommand_ok h]; exact exec_next i s
  | error e => exact ⟨_, runCommand_error h s⟩

/-- What serving a write can do (R104, R105): fault, run a command, clear STATUS bits, or store. -/
theorem serveWrite_cases (off : BitVec 16) (size : Nat) (v : Word) (s : State) :
    serveWrite off size v s = .next (busFault s) ∨
    (accessReg off size = some .cmd ∧ serveWrite off size v s = runCommand v s) ∨
    (accessReg off size = some .status ∧ serveWrite off size v s = .next (clearStatus v s)) ∨
    (∃ r, accessReg off size = some r ∧ r.accessType = .rw ∧
      serveWrite off size v s = .next (storeReg r v s)) := by
  unfold serveWrite
  cases h : accessReg off size with
  | none => exact .inl rfl
  | some r =>
    cases r <;> first
      | exact .inl rfl
      | exact .inr (.inl ⟨rfl, rfl⟩)
      | exact .inr (.inr (.inl ⟨rfl, rfl⟩))
      | exact .inr (.inr (.inr ⟨_, rfl, rfl, rfl⟩))

@[simp] theorem step_nil {s : State} (h : s.pending = []) : step s = .next s := by simp [step, h]

theorem step_cons {s : State} {e : HostEvent} {rest : List HostEvent} (h : s.pending = e :: rest) :
    step s = serveEvent e (takeEvent rest s) := by simp [step, h]

/-- What a step can do: wait, serve a read, serve a write, reset, or refuse. -/
theorem step_cases {s t : State} (h : step s = .next t) :
    (s.pending = [] ∧ t = s) ∨
    (∃ off size rest, s.pending = .access (.read off size) :: rest ∧
      t = serveRead off size (takeEvent rest s)) ∨
    (∃ off size v rest, s.pending = .access (.write off size v) :: rest ∧
      serveWrite off size v (takeEvent rest s) = .next t) ∨
    (∃ rest, s.pending = .reset :: rest ∧ t = hardwareReset (takeEvent rest s)) := by
  cases hp : s.pending with
  | nil => rw [step_nil hp] at h; exact .inl ⟨rfl, by simpa using h.symm⟩
  | cons e rest =>
    rw [step_cons hp] at h
    cases e with
    | access a =>
      cases a with
      | read off size => exact .inr (.inl ⟨off, size, rest, rfl, by simpa [serveEvent] using h.symm⟩)
      | write off size v => exact .inr (.inr (.inl ⟨off, size, v, rest, rfl, h⟩))
    | reset => exact .inr (.inr (.inr ⟨rest, rfl, by simpa [serveEvent] using h.symm⟩))
    | accessInReset a => simp [serveEvent] at h

@[simp] theorem nextOf_next (s : State) : nextOf (.next s) = some s := rfl

theorem execAll_cons {i : Instr} {s t : State} (h : exec i s = .next t) (is : List Instr) :
    execAll (i :: is) s = execAll is t := by simp [execAll, h]

theorem execTrace_cons {i : Instr} {s t : State} (h : exec i s = .next t) (is : List Instr) :
    execTrace (i :: is) s = t :: execTrace is t := by simp [execTrace, h]

end Sys2Proof.Machine
end

