-- ==== Sys2Proof/Laws/PerInstr.lean ====
section
/-! SUPPORT. Statements about every instruction as syntax, one lemma per constructor. -/

namespace Sys2Proof.Laws

/-- The fields an instruction encodes to pass the three checks of R136, as the rules list them
(WellFormed.lean): its opcode is in the map, its selector is legal, its immediate fits. -/
def EncodeLegal.Statement (i : Instr) : Prop := (encodeCommand i).wellFormed = true

/-- A command whose opcode and selector are legal and whose immediate is a `k`-bit number is well
formed. -/
theorem wellFormed_of_width {k : Nat} (opc sel : BitVec 8) (v : BitVec k) (hk : k ≤ 16)
    (h : Command.opcIllegal opc.toNat = false) (hs : Command.selLegal opc.toNat sel.toNat = true)
    (hw : Command.immWidth opc.toNat = k) :
    (⟨opc, sel, v.setWidth 16⟩ : Command).wellFormed = true := by
  have hv : v.toNat < 2 ^ k := v.isLt
  have h16 : 2 ^ k ≤ 2 ^ 16 := Nat.pow_le_pow_right (by decide) hk
  have hm : v.toNat % 65536 = v.toNat := Nat.mod_eq_of_lt (by simpa using hv.trans_le h16)
  simp [Command.wellFormed, h, hs, hw, hm, hv]

theorem EncodeLegal.nop : EncodeLegal.Statement .nop := rfl

theorem EncodeLegal.srst (mask : BitVec 8) : EncodeLegal.Statement (.srst mask) := by
  simp [EncodeLegal.Statement, encodeCommand, Command.wellFormed, Command.selLegal]; decide

theorem EncodeLegal.mfmDecCell (b : Bool) : EncodeLegal.Statement (.mfmDecCell b) := by
  cases b <;> rfl

theorem EncodeLegal.mfmEncByte (d : BitVec 8) : EncodeLegal.Statement (.mfmEncByte d) :=
  wellFormed_of_width _ _ d (by decide) (by decide) (by decide) (by decide)

theorem EncodeLegal.mfmEncSync (kind : SyncKind) : EncodeLegal.Statement (.mfmEncSync kind) := by
  cases kind <;> rfl

theorem EncodeLegal.mfmEncPrev (b : Bool) : EncodeLegal.Statement (.mfmEncPrev b) := by
  cases b <;> rfl

theorem EncodeLegal.fmDecCell (b : Bool) : EncodeLegal.Statement (.fmDecCell b) := by
  cases b <;> rfl

theorem EncodeLegal.fmEncByte (d : BitVec 8) : EncodeLegal.Statement (.fmEncByte d) :=
  wellFormed_of_width _ _ d (by decide) (by decide) (by decide) (by decide)

theorem EncodeLegal.fmEncMark (kind : FmMark) : EncodeLegal.Statement (.fmEncMark kind) := by
  cases kind <;> rfl

theorem EncodeLegal.m2fmDecCell (b : Bool) : EncodeLegal.Statement (.m2fmDecCell b) := by
  cases b <;> rfl

theorem EncodeLegal.m2fmEncByte (d : BitVec 8) : EncodeLegal.Statement (.m2fmEncByte d) :=
  wellFormed_of_width _ _ d (by decide) (by decide) (by decide) (by decide)

theorem EncodeLegal.m2fmEncPrev (v : BitVec 2) : EncodeLegal.Statement (.m2fmEncPrev v) :=
  wellFormed_of_width _ _ v (by decide) (by decide) (by decide) (by decide)

theorem EncodeLegal.gcr5EncNib (n : BitVec 4) : EncodeLegal.Statement (.gcr5EncNib n) :=
  wellFormed_of_width _ _ n (by decide) (by decide) (by decide) (by decide)

theorem EncodeLegal.gcr5DecCode (c : BitVec 5) : EncodeLegal.Statement (.gcr5DecCode c) :=
  wellFormed_of_width _ _ c (by decide) (by decide) (by decide) (by decide)

theorem EncodeLegal.gcr5EncByte (d : BitVec 8) : EncodeLegal.Statement (.gcr5EncByte d) :=
  wellFormed_of_width _ _ d (by decide) (by decide) (by decide) (by decide)

theorem EncodeLegal.gcr5DecWord (c : BitVec 10) : EncodeLegal.Statement (.gcr5DecWord c) :=
  wellFormed_of_width _ _ c (by decide) (by decide) (by decide) (by decide)

theorem EncodeLegal.gcr5DecCell (b : Bool) : EncodeLegal.Statement (.gcr5DecCell b) := by
  cases b <;> rfl

theorem EncodeLegal.a62Enc (v : BitVec 6) : EncodeLegal.Statement (.a62Enc v) :=
  wellFormed_of_width _ _ v (by decide) (by decide) (by decide) (by decide)

theorem EncodeLegal.a62Dec (x : BitVec 8) : EncodeLegal.Statement (.a62Dec x) :=
  wellFormed_of_width _ _ x (by decide) (by decide) (by decide) (by decide)

theorem EncodeLegal.a53Enc (v : BitVec 5) : EncodeLegal.Statement (.a53Enc v) :=
  wellFormed_of_width _ _ v (by decide) (by decide) (by decide) (by decide)

theorem EncodeLegal.a53Dec (x : BitVec 8) : EncodeLegal.Statement (.a53Dec x) :=
  wellFormed_of_width _ _ x (by decide) (by decide) (by decide) (by decide)

theorem EncodeLegal.aplDecCell (b : Bool) : EncodeLegal.Statement (.aplDecCell b) := by
  cases b <;> rfl

theorem EncodeLegal.aproStep (x : BitVec 8) : EncodeLegal.Statement (.aproStep x) :=
  wellFormed_of_width _ _ x (by decide) (by decide) (by decide) (by decide)

theorem EncodeLegal.amiEncLong : EncodeLegal.Statement .amiEncLong := rfl

theorem EncodeLegal.amiEncHalf (half : AmiHalf) : EncodeLegal.Statement (.amiEncHalf half) := by
  cases half <;> rfl

theorem EncodeLegal.amiDecLong : EncodeLegal.Statement .amiDecLong := rfl

theorem EncodeLegal.amiEncPrev (b : Bool) : EncodeLegal.Statement (.amiEncPrev b) := by
  cases b <;> rfl

theorem EncodeLegal.amiCsumClr : EncodeLegal.Statement .amiCsumClr := rfl

theorem EncodeLegal.amiCsumAdd : EncodeLegal.Statement .amiCsumAdd := rfl

theorem EncodeLegal.crc16Init : EncodeLegal.Statement .crc16Init := rfl

theorem EncodeLegal.crc16Load (v : BitVec 16) : EncodeLegal.Statement (.crc16Load v) := by
  have h := wellFormed_of_width 0x41 0 v (by decide) (by decide) (by decide) (by decide)
  simpa [EncodeLegal.Statement, encodeCommand] using h

theorem EncodeLegal.crc16Byte (b : BitVec 8) : EncodeLegal.Statement (.crc16Byte b) :=
  wellFormed_of_width _ _ b (by decide) (by decide) (by decide) (by decide)

theorem EncodeLegal.crc32Init : EncodeLegal.Statement .crc32Init := rfl

theorem EncodeLegal.crc32Load : EncodeLegal.Statement .crc32Load := rfl

theorem EncodeLegal.crc32Byte (b : BitVec 8) : EncodeLegal.Statement (.crc32Byte b) :=
  wellFormed_of_width _ _ b (by decide) (by decide) (by decide) (by decide)

theorem EncodeLegal.crc32beInit : EncodeLegal.Statement .crc32beInit := rfl

theorem EncodeLegal.crc32beLoad : EncodeLegal.Statement .crc32beLoad := rfl

theorem EncodeLegal.crc32beByte (b : BitVec 8) : EncodeLegal.Statement (.crc32beByte b) :=
  wellFormed_of_width _ _ b (by decide) (by decide) (by decide) (by decide)

theorem EncodeLegal.fluxClr : EncodeLegal.Statement .fluxClr := rfl

theorem EncodeLegal.fluxPush : EncodeLegal.Statement .fluxPush := rfl

theorem EncodeLegal.histBuild : EncodeLegal.Statement .histBuild := rfl

theorem EncodeLegal.peakFind : EncodeLegal.Statement .peakFind := rfl

theorem EncodeLegal.classify : EncodeLegal.Statement .classify := rfl

theorem EncodeLegal.fluxCells : EncodeLegal.Statement .fluxCells := rfl

end Sys2Proof.Laws
end

