-- ==== Sys2Proof/Laws/State.lean ====
section
/-! SUPPORT. What each shared update of the state leaves in each field: one lemma per field per update. -/

namespace Sys2Proof.Machine

/-! The start of a command (R36): EVT alone. -/

@[simp] theorem clearEvt_params (s : State) : (clearEvt s).params = s.params := rfl
@[simp] theorem clearEvt_status (s : State) : (clearEvt s).status = s.status := rfl
@[simp] theorem clearEvt_errcode (s : State) : (clearEvt s).errcode = s.errcode := rfl
@[simp] theorem clearEvt_irqEn (s : State) : (clearEvt s).irqEn = s.irqEn := rfl
@[simp] theorem clearEvt_evt (s : State) : (clearEvt s).evt = 0 := rfl
@[simp] theorem clearEvt_din0 (s : State) : (clearEvt s).din0 = s.din0 := rfl
@[simp] theorem clearEvt_din1 (s : State) : (clearEvt s).din1 = s.din1 := rfl
@[simp] theorem clearEvt_dout0 (s : State) : (clearEvt s).dout0 = s.dout0 := rfl
@[simp] theorem clearEvt_dout1 (s : State) : (clearEvt s).dout1 = s.dout1 := rfl
@[simp] theorem clearEvt_histW (s : State) : (clearEvt s).histW = s.histW := rfl
@[simp] theorem clearEvt_peakThr (s : State) : (clearEvt s).peakThr = s.peakThr := rfl
@[simp] theorem clearEvt_peakSep (s : State) : (clearEvt s).peakSep = s.peakSep := rfl
@[simp] theorem clearEvt_cellNs (s : State) : (clearEvt s).cellNs = s.cellNs := rfl
@[simp] theorem clearEvt_crc16Initv (s : State) : (clearEvt s).crc16Initv = s.crc16Initv := rfl
@[simp] theorem clearEvt_crc16 (s : State) : (clearEvt s).crc16 = s.crc16 := rfl
@[simp] theorem clearEvt_crc32 (s : State) : (clearEvt s).crc32 = s.crc32 := rfl
@[simp] theorem clearEvt_crc32be (s : State) : (clearEvt s).crc32be = s.crc32be := rfl
@[simp] theorem clearEvt_amiacc (s : State) : (clearEvt s).amiacc = s.amiacc := rfl
@[simp] theorem clearEvt_mfm (s : State) : (clearEvt s).mfm = s.mfm := rfl
@[simp] theorem clearEvt_m2 (s : State) : (clearEvt s).m2 = s.m2 := rfl
@[simp] theorem clearEvt_fm (s : State) : (clearEvt s).fm = s.fm := rfl
@[simp] theorem clearEvt_g5 (s : State) : (clearEvt s).g5 = s.g5 := rfl
@[simp] theorem clearEvt_aplsr (s : State) : (clearEvt s).aplsr = s.aplsr := rfl
@[simp] theorem clearEvt_apro (s : State) : (clearEvt s).apro = s.apro := rfl
@[simp] theorem clearEvt_enc (s : State) : (clearEvt s).enc = s.enc := rfl
@[simp] theorem clearEvt_mem (s : State) : (clearEvt s).mem = s.mem := rfl
@[simp] theorem clearEvt_fluxcnt (s : State) : (clearEvt s).fluxcnt = s.fluxcnt := rfl
@[simp] theorem clearEvt_histMin (s : State) : (clearEvt s).histMin = s.histMin := rfl
@[simp] theorem clearEvt_histNb (s : State) : (clearEvt s).histNb = s.histNb := rfl
@[simp] theorem clearEvt_histOor (s : State) : (clearEvt s).histOor = s.histOor := rfl
@[simp] theorem clearEvt_histValid (s : State) : (clearEvt s).histValid = s.histValid := rfl
@[simp] theorem clearEvt_peaksValid (s : State) : (clearEvt s).peaksValid = s.peaksValid := rfl
@[simp] theorem clearEvt_classValid (s : State) : (clearEvt s).classValid = s.classValid := rfl
@[simp] theorem clearEvt_peakN (s : State) : (clearEvt s).peakN = s.peakN := rfl
@[simp] theorem clearEvt_peaks (s : State) : (clearEvt s).peaks = s.peaks := rfl
@[simp] theorem clearEvt_reading (s : State) : (clearEvt s).reading = s.reading := rfl
@[simp] theorem clearEvt_pending (s : State) : (clearEvt s).pending = s.pending := rfl
@[simp] theorem clearEvt_lastRead (s : State) : (clearEvt s).lastRead = s.lastRead := rfl

/-! The events of a command (R11, R444): EVT, and STATUS.DEC_ERR. -/

@[simp] theorem emit_params (e : Events) (s : State) : (emit e s).params = s.params := rfl
@[simp] theorem emit_status (e : Events) (s : State) :
    (emit e s).status = if e.decErr then s.status ||| statusDecErr else s.status := rfl
@[simp] theorem emit_errcode (e : Events) (s : State) : (emit e s).errcode = s.errcode := rfl
@[simp] theorem emit_irqEn (e : Events) (s : State) : (emit e s).irqEn = s.irqEn := rfl
@[simp] theorem emit_evt (e : Events) (s : State) : (emit e s).evt = e.pack := rfl
@[simp] theorem emit_din0 (e : Events) (s : State) : (emit e s).din0 = s.din0 := rfl
@[simp] theorem emit_din1 (e : Events) (s : State) : (emit e s).din1 = s.din1 := rfl
@[simp] theorem emit_dout0 (e : Events) (s : State) : (emit e s).dout0 = s.dout0 := rfl
@[simp] theorem emit_dout1 (e : Events) (s : State) : (emit e s).dout1 = s.dout1 := rfl
@[simp] theorem emit_histW (e : Events) (s : State) : (emit e s).histW = s.histW := rfl
@[simp] theorem emit_peakThr (e : Events) (s : State) : (emit e s).peakThr = s.peakThr := rfl
@[simp] theorem emit_peakSep (e : Events) (s : State) : (emit e s).peakSep = s.peakSep := rfl
@[simp] theorem emit_cellNs (e : Events) (s : State) : (emit e s).cellNs = s.cellNs := rfl
@[simp] theorem emit_crc16Initv (e : Events) (s : State) :
    (emit e s).crc16Initv = s.crc16Initv := rfl
@[simp] theorem emit_crc16 (e : Events) (s : State) : (emit e s).crc16 = s.crc16 := rfl
@[simp] theorem emit_crc32 (e : Events) (s : State) : (emit e s).crc32 = s.crc32 := rfl
@[simp] theorem emit_crc32be (e : Events) (s : State) : (emit e s).crc32be = s.crc32be := rfl
@[simp] theorem emit_amiacc (e : Events) (s : State) : (emit e s).amiacc = s.amiacc := rfl
@[simp] theorem emit_mfm (e : Events) (s : State) : (emit e s).mfm = s.mfm := rfl
@[simp] theorem emit_m2 (e : Events) (s : State) : (emit e s).m2 = s.m2 := rfl
@[simp] theorem emit_fm (e : Events) (s : State) : (emit e s).fm = s.fm := rfl
@[simp] theorem emit_g5 (e : Events) (s : State) : (emit e s).g5 = s.g5 := rfl
@[simp] theorem emit_aplsr (e : Events) (s : State) : (emit e s).aplsr = s.aplsr := rfl
@[simp] theorem emit_apro (e : Events) (s : State) : (emit e s).apro = s.apro := rfl
@[simp] theorem emit_enc (e : Events) (s : State) : (emit e s).enc = s.enc := rfl
@[simp] theorem emit_mem (e : Events) (s : State) : (emit e s).mem = s.mem := rfl
@[simp] theorem emit_fluxcnt (e : Events) (s : State) : (emit e s).fluxcnt = s.fluxcnt := rfl
@[simp] theorem emit_histMin (e : Events) (s : State) : (emit e s).histMin = s.histMin := rfl
@[simp] theorem emit_histNb (e : Events) (s : State) : (emit e s).histNb = s.histNb := rfl
@[simp] theorem emit_histOor (e : Events) (s : State) : (emit e s).histOor = s.histOor := rfl
@[simp] theorem emit_histValid (e : Events) (s : State) : (emit e s).histValid = s.histValid := rfl
@[simp] theorem emit_peaksValid (e : Events) (s : State) :
    (emit e s).peaksValid = s.peaksValid := rfl
@[simp] theorem emit_classValid (e : Events) (s : State) :
    (emit e s).classValid = s.classValid := rfl
@[simp] theorem emit_peakN (e : Events) (s : State) : (emit e s).peakN = s.peakN := rfl
@[simp] theorem emit_peaks (e : Events) (s : State) : (emit e s).peaks = s.peaks := rfl
@[simp] theorem emit_reading (e : Events) (s : State) : (emit e s).reading = s.reading := rfl
@[simp] theorem emit_pending (e : Events) (s : State) : (emit e s).pending = s.pending := rfl
@[simp] theorem emit_lastRead (e : Events) (s : State) : (emit e s).lastRead = s.lastRead := rfl

/-! A rejection (R441): EVT, STATUS and ERRCODE. -/

@[simp] theorem reject_params (c : ErrorCode) (s : State) : (reject c s).params = s.params := rfl
@[simp] theorem reject_status (c : ErrorCode) (s : State) :
    (reject c s).status = s.status ||| c.statusBit := rfl
@[simp] theorem reject_errcode (c : ErrorCode) (s : State) : (reject c s).errcode = c.code := rfl
@[simp] theorem reject_irqEn (c : ErrorCode) (s : State) : (reject c s).irqEn = s.irqEn := rfl
@[simp] theorem reject_evt (c : ErrorCode) (s : State) : (reject c s).evt = 0x80 := rfl
@[simp] theorem reject_din0 (c : ErrorCode) (s : State) : (reject c s).din0 = s.din0 := rfl
@[simp] theorem reject_din1 (c : ErrorCode) (s : State) : (reject c s).din1 = s.din1 := rfl
@[simp] theorem reject_dout0 (c : ErrorCode) (s : State) : (reject c s).dout0 = s.dout0 := rfl
@[simp] theorem reject_dout1 (c : ErrorCode) (s : State) : (reject c s).dout1 = s.dout1 := rfl
@[simp] theorem reject_histW (c : ErrorCode) (s : State) : (reject c s).histW = s.histW := rfl
@[simp] theorem reject_peakThr (c : ErrorCode) (s : State) : (reject c s).peakThr = s.peakThr := rfl
@[simp] theorem reject_peakSep (c : ErrorCode) (s : State) : (reject c s).peakSep = s.peakSep := rfl
@[simp] theorem reject_cellNs (c : ErrorCode) (s : State) : (reject c s).cellNs = s.cellNs := rfl
@[simp] theorem reject_crc16Initv (c : ErrorCode) (s : State) :
    (reject c s).crc16Initv = s.crc16Initv := rfl
@[simp] theorem reject_crc16 (c : ErrorCode) (s : State) : (reject c s).crc16 = s.crc16 := rfl
@[simp] theorem reject_crc32 (c : ErrorCode) (s : State) : (reject c s).crc32 = s.crc32 := rfl
@[simp] theorem reject_crc32be (c : ErrorCode) (s : State) : (reject c s).crc32be = s.crc32be := rfl
@[simp] theorem reject_amiacc (c : ErrorCode) (s : State) : (reject c s).amiacc = s.amiacc := rfl
@[simp] theorem reject_mfm (c : ErrorCode) (s : State) : (reject c s).mfm = s.mfm := rfl
@[simp] theorem reject_m2 (c : ErrorCode) (s : State) : (reject c s).m2 = s.m2 := rfl
@[simp] theorem reject_fm (c : ErrorCode) (s : State) : (reject c s).fm = s.fm := rfl
@[simp] theorem reject_g5 (c : ErrorCode) (s : State) : (reject c s).g5 = s.g5 := rfl
@[simp] theorem reject_aplsr (c : ErrorCode) (s : State) : (reject c s).aplsr = s.aplsr := rfl
@[simp] theorem reject_apro (c : ErrorCode) (s : State) : (reject c s).apro = s.apro := rfl
@[simp] theorem reject_enc (c : ErrorCode) (s : State) : (reject c s).enc = s.enc := rfl
@[simp] theorem reject_mem (c : ErrorCode) (s : State) : (reject c s).mem = s.mem := rfl
@[simp] theorem reject_fluxcnt (c : ErrorCode) (s : State) : (reject c s).fluxcnt = s.fluxcnt := rfl
@[simp] theorem reject_histMin (c : ErrorCode) (s : State) : (reject c s).histMin = s.histMin := rfl
@[simp] theorem reject_histNb (c : ErrorCode) (s : State) : (reject c s).histNb = s.histNb := rfl
@[simp] theorem reject_histOor (c : ErrorCode) (s : State) : (reject c s).histOor = s.histOor := rfl
@[simp] theorem reject_histValid (c : ErrorCode) (s : State) :
    (reject c s).histValid = s.histValid := rfl
@[simp] theorem reject_peaksValid (c : ErrorCode) (s : State) :
    (reject c s).peaksValid = s.peaksValid := rfl
@[simp] theorem reject_classValid (c : ErrorCode) (s : State) :
    (reject c s).classValid = s.classValid := rfl
@[simp] theorem reject_peakN (c : ErrorCode) (s : State) : (reject c s).peakN = s.peakN := rfl
@[simp] theorem reject_peaks (c : ErrorCode) (s : State) : (reject c s).peaks = s.peaks := rfl
@[simp] theorem reject_reading (c : ErrorCode) (s : State) : (reject c s).reading = s.reading := rfl
@[simp] theorem reject_pending (c : ErrorCode) (s : State) : (reject c s).pending = s.pending := rfl
@[simp] theorem reject_lastRead (c : ErrorCode) (s : State) :
    (reject c s).lastRead = s.lastRead := rfl

/-! A bus fault (R443): STATUS and ERRCODE. -/

@[simp] theorem busFault_params (s : State) : (busFault s).params = s.params := rfl
@[simp] theorem busFault_status (s : State) :
    (busFault s).status = s.status ||| ErrorCode.busErr.statusBit := rfl
@[simp] theorem busFault_errcode (s : State) : (busFault s).errcode = ErrorCode.busErr.code := rfl
@[simp] theorem busFault_irqEn (s : State) : (busFault s).irqEn = s.irqEn := rfl
@[simp] theorem busFault_evt (s : State) : (busFault s).evt = s.evt := rfl
@[simp] theorem busFault_din0 (s : State) : (busFault s).din0 = s.din0 := rfl
@[simp] theorem busFault_din1 (s : State) : (busFault s).din1 = s.din1 := rfl
@[simp] theorem busFault_dout0 (s : State) : (busFault s).dout0 = s.dout0 := rfl
@[simp] theorem busFault_dout1 (s : State) : (busFault s).dout1 = s.dout1 := rfl
@[simp] theorem busFault_histW (s : State) : (busFault s).histW = s.histW := rfl
@[simp] theorem busFault_peakThr (s : State) : (busFault s).peakThr = s.peakThr := rfl
@[simp] theorem busFault_peakSep (s : State) : (busFault s).peakSep = s.peakSep := rfl
@[simp] theorem busFault_cellNs (s : State) : (busFault s).cellNs = s.cellNs := rfl
@[simp] theorem busFault_crc16Initv (s : State) : (busFault s).crc16Initv = s.crc16Initv := rfl
@[simp] theorem busFault_crc16 (s : State) : (busFault s).crc16 = s.crc16 := rfl
@[simp] theorem busFault_crc32 (s : State) : (busFault s).crc32 = s.crc32 := rfl
@[simp] theorem busFault_crc32be (s : State) : (busFault s).crc32be = s.crc32be := rfl
@[simp] theorem busFault_amiacc (s : State) : (busFault s).amiacc = s.amiacc := rfl
@[simp] theorem busFault_mfm (s : State) : (busFault s).mfm = s.mfm := rfl
@[simp] theorem busFault_m2 (s : State) : (busFault s).m2 = s.m2 := rfl
@[simp] theorem busFault_fm (s : State) : (busFault s).fm = s.fm := rfl
@[simp] theorem busFault_g5 (s : State) : (busFault s).g5 = s.g5 := rfl
@[simp] theorem busFault_aplsr (s : State) : (busFault s).aplsr = s.aplsr := rfl
@[simp] theorem busFault_apro (s : State) : (busFault s).apro = s.apro := rfl
@[simp] theorem busFault_enc (s : State) : (busFault s).enc = s.enc := rfl
@[simp] theorem busFault_mem (s : State) : (busFault s).mem = s.mem := rfl
@[simp] theorem busFault_fluxcnt (s : State) : (busFault s).fluxcnt = s.fluxcnt := rfl
@[simp] theorem busFault_histMin (s : State) : (busFault s).histMin = s.histMin := rfl
@[simp] theorem busFault_histNb (s : State) : (busFault s).histNb = s.histNb := rfl
@[simp] theorem busFault_histOor (s : State) : (busFault s).histOor = s.histOor := rfl
@[simp] theorem busFault_histValid (s : State) : (busFault s).histValid = s.histValid := rfl
@[simp] theorem busFault_peaksValid (s : State) : (busFault s).peaksValid = s.peaksValid := rfl
@[simp] theorem busFault_classValid (s : State) : (busFault s).classValid = s.classValid := rfl
@[simp] theorem busFault_peakN (s : State) : (busFault s).peakN = s.peakN := rfl
@[simp] theorem busFault_peaks (s : State) : (busFault s).peaks = s.peaks := rfl
@[simp] theorem busFault_reading (s : State) : (busFault s).reading = s.reading := rfl
@[simp] theorem busFault_pending (s : State) : (busFault s).pending = s.pending := rfl
@[simp] theorem busFault_lastRead (s : State) : (busFault s).lastRead = s.lastRead := rfl

/-! Taking the oldest event: the queue and the data of the last read. -/

@[simp] theorem takeEvent_params (rest : List HostEvent) (s : State) :
    (takeEvent rest s).params = s.params := rfl
@[simp] theorem takeEvent_status (rest : List HostEvent) (s : State) :
    (takeEvent rest s).status = s.status := rfl
@[simp] theorem takeEvent_errcode (rest : List HostEvent) (s : State) :
    (takeEvent rest s).errcode = s.errcode := rfl
@[simp] theorem takeEvent_irqEn (rest : List HostEvent) (s : State) :
    (takeEvent rest s).irqEn = s.irqEn := rfl
@[simp] theorem takeEvent_evt (rest : List HostEvent) (s : State) :
    (takeEvent rest s).evt = s.evt := rfl
@[simp] theorem takeEvent_din0 (rest : List HostEvent) (s : State) :
    (takeEvent rest s).din0 = s.din0 := rfl
@[simp] theorem takeEvent_din1 (rest : List HostEvent) (s : State) :
    (takeEvent rest s).din1 = s.din1 := rfl
@[simp] theorem takeEvent_dout0 (rest : List HostEvent) (s : State) :
    (takeEvent rest s).dout0 = s.dout0 := rfl
@[simp] theorem takeEvent_dout1 (rest : List HostEvent) (s : State) :
    (takeEvent rest s).dout1 = s.dout1 := rfl
@[simp] theorem takeEvent_histW (rest : List HostEvent) (s : State) :
    (takeEvent rest s).histW = s.histW := rfl
@[simp] theorem takeEvent_peakThr (rest : List HostEvent) (s : State) :
    (takeEvent rest s).peakThr = s.peakThr := rfl
@[simp] theorem takeEvent_peakSep (rest : List HostEvent) (s : State) :
    (takeEvent rest s).peakSep = s.peakSep := rfl
@[simp] theorem takeEvent_cellNs (rest : List HostEvent) (s : State) :
    (takeEvent rest s).cellNs = s.cellNs := rfl
@[simp] theorem takeEvent_crc16Initv (rest : List HostEvent) (s : State) :
    (takeEvent rest s).crc16Initv = s.crc16Initv := rfl
@[simp] theorem takeEvent_crc16 (rest : List HostEvent) (s : State) :
    (takeEvent rest s).crc16 = s.crc16 := rfl
@[simp] theorem takeEvent_crc32 (rest : List HostEvent) (s : State) :
    (takeEvent rest s).crc32 = s.crc32 := rfl
@[simp] theorem takeEvent_crc32be (rest : List HostEvent) (s : State) :
    (takeEvent rest s).crc32be = s.crc32be := rfl
@[simp] theorem takeEvent_amiacc (rest : List HostEvent) (s : State) :
    (takeEvent rest s).amiacc = s.amiacc := rfl
@[simp] theorem takeEvent_mfm (rest : List HostEvent) (s : State) :
    (takeEvent rest s).mfm = s.mfm := rfl
@[simp] theorem takeEvent_m2 (rest : List HostEvent) (s : State) :
    (takeEvent rest s).m2 = s.m2 := rfl
@[simp] theorem takeEvent_fm (rest : List HostEvent) (s : State) :
    (takeEvent rest s).fm = s.fm := rfl
@[simp] theorem takeEvent_g5 (rest : List HostEvent) (s : State) :
    (takeEvent rest s).g5 = s.g5 := rfl
@[simp] theorem takeEvent_aplsr (rest : List HostEvent) (s : State) :
    (takeEvent rest s).aplsr = s.aplsr := rfl
@[simp] theorem takeEvent_apro (rest : List HostEvent) (s : State) :
    (takeEvent rest s).apro = s.apro := rfl
@[simp] theorem takeEvent_enc (rest : List HostEvent) (s : State) :
    (takeEvent rest s).enc = s.enc := rfl
@[simp] theorem takeEvent_mem (rest : List HostEvent) (s : State) :
    (takeEvent rest s).mem = s.mem := rfl
@[simp] theorem takeEvent_fluxcnt (rest : List HostEvent) (s : State) :
    (takeEvent rest s).fluxcnt = s.fluxcnt := rfl
@[simp] theorem takeEvent_histMin (rest : List HostEvent) (s : State) :
    (takeEvent rest s).histMin = s.histMin := rfl
@[simp] theorem takeEvent_histNb (rest : List HostEvent) (s : State) :
    (takeEvent rest s).histNb = s.histNb := rfl
@[simp] theorem takeEvent_histOor (rest : List HostEvent) (s : State) :
    (takeEvent rest s).histOor = s.histOor := rfl
@[simp] theorem takeEvent_histValid (rest : List HostEvent) (s : State) :
    (takeEvent rest s).histValid = s.histValid := rfl
@[simp] theorem takeEvent_peaksValid (rest : List HostEvent) (s : State) :
    (takeEvent rest s).peaksValid = s.peaksValid := rfl
@[simp] theorem takeEvent_classValid (rest : List HostEvent) (s : State) :
    (takeEvent rest s).classValid = s.classValid := rfl
@[simp] theorem takeEvent_peakN (rest : List HostEvent) (s : State) :
    (takeEvent rest s).peakN = s.peakN := rfl
@[simp] theorem takeEvent_peaks (rest : List HostEvent) (s : State) :
    (takeEvent rest s).peaks = s.peaks := rfl
@[simp] theorem takeEvent_reading (rest : List HostEvent) (s : State) :
    (takeEvent rest s).reading = s.reading := rfl
@[simp] theorem takeEvent_pending (rest : List HostEvent) (s : State) :
    (takeEvent rest s).pending = rest := rfl
@[simp] theorem takeEvent_lastRead (rest : List HostEvent) (s : State) :
    (takeEvent rest s).lastRead = none := rfl

/-! SRST mask bit 4 (R431). -/

@[simp] theorem appleClear_params (s : State) : (appleClear s).params = s.params := rfl
@[simp] theorem appleClear_status (s : State) : (appleClear s).status = s.status := rfl
@[simp] theorem appleClear_errcode (s : State) : (appleClear s).errcode = s.errcode := rfl
@[simp] theorem appleClear_irqEn (s : State) : (appleClear s).irqEn = s.irqEn := rfl
@[simp] theorem appleClear_evt (s : State) : (appleClear s).evt = s.evt := rfl
@[simp] theorem appleClear_din0 (s : State) : (appleClear s).din0 = s.din0 := rfl
@[simp] theorem appleClear_din1 (s : State) : (appleClear s).din1 = s.din1 := rfl
@[simp] theorem appleClear_dout0 (s : State) : (appleClear s).dout0 = s.dout0 := rfl
@[simp] theorem appleClear_dout1 (s : State) : (appleClear s).dout1 = s.dout1 := rfl
@[simp] theorem appleClear_histW (s : State) : (appleClear s).histW = s.histW := rfl
@[simp] theorem appleClear_peakThr (s : State) : (appleClear s).peakThr = s.peakThr := rfl
@[simp] theorem appleClear_peakSep (s : State) : (appleClear s).peakSep = s.peakSep := rfl
@[simp] theorem appleClear_cellNs (s : State) : (appleClear s).cellNs = s.cellNs := rfl
@[simp] theorem appleClear_crc16Initv (s : State) : (appleClear s).crc16Initv = s.crc16Initv := rfl
@[simp] theorem appleClear_crc16 (s : State) : (appleClear s).crc16 = s.crc16 := rfl
@[simp] theorem appleClear_crc32 (s : State) : (appleClear s).crc32 = s.crc32 := rfl
@[simp] theorem appleClear_crc32be (s : State) : (appleClear s).crc32be = s.crc32be := rfl
@[simp] theorem appleClear_amiacc (s : State) : (appleClear s).amiacc = s.amiacc := rfl
@[simp] theorem appleClear_mfm (s : State) : (appleClear s).mfm = s.mfm := rfl
@[simp] theorem appleClear_m2 (s : State) : (appleClear s).m2 = s.m2 := rfl
@[simp] theorem appleClear_fm (s : State) : (appleClear s).fm = s.fm := rfl
@[simp] theorem appleClear_g5 (s : State) : (appleClear s).g5 = s.g5 := rfl
@[simp] theorem appleClear_aplsr (s : State) : (appleClear s).aplsr = 0 := rfl
@[simp] theorem appleClear_apro (s : State) : (appleClear s).apro = .idle := rfl
@[simp] theorem appleClear_enc (s : State) : (appleClear s).enc = s.enc := rfl
@[simp] theorem appleClear_mem (s : State) : (appleClear s).mem = s.mem := rfl
@[simp] theorem appleClear_fluxcnt (s : State) : (appleClear s).fluxcnt = s.fluxcnt := rfl
@[simp] theorem appleClear_histMin (s : State) : (appleClear s).histMin = s.histMin := rfl
@[simp] theorem appleClear_histNb (s : State) : (appleClear s).histNb = s.histNb := rfl
@[simp] theorem appleClear_histOor (s : State) : (appleClear s).histOor = s.histOor := rfl
@[simp] theorem appleClear_histValid (s : State) : (appleClear s).histValid = s.histValid := rfl
@[simp] theorem appleClear_peaksValid (s : State) : (appleClear s).peaksValid = s.peaksValid := rfl
@[simp] theorem appleClear_classValid (s : State) : (appleClear s).classValid = s.classValid := rfl
@[simp] theorem appleClear_peakN (s : State) : (appleClear s).peakN = s.peakN := rfl
@[simp] theorem appleClear_peaks (s : State) : (appleClear s).peaks = s.peaks := rfl
@[simp] theorem appleClear_reading (s : State) : (appleClear s).reading = s.reading := rfl
@[simp] theorem appleClear_pending (s : State) : (appleClear s).pending = s.pending := rfl
@[simp] theorem appleClear_lastRead (s : State) : (appleClear s).lastRead = s.lastRead := rfl

/-! SRST mask bit 6 (R431). -/

@[simp] theorem crcClear_params (s : State) : (crcClear s).params = s.params := rfl
@[simp] theorem crcClear_status (s : State) : (crcClear s).status = s.status := rfl
@[simp] theorem crcClear_errcode (s : State) : (crcClear s).errcode = s.errcode := rfl
@[simp] theorem crcClear_irqEn (s : State) : (crcClear s).irqEn = s.irqEn := rfl
@[simp] theorem crcClear_evt (s : State) : (crcClear s).evt = s.evt := rfl
@[simp] theorem crcClear_din0 (s : State) : (crcClear s).din0 = s.din0 := rfl
@[simp] theorem crcClear_din1 (s : State) : (crcClear s).din1 = s.din1 := rfl
@[simp] theorem crcClear_dout0 (s : State) : (crcClear s).dout0 = s.dout0 := rfl
@[simp] theorem crcClear_dout1 (s : State) : (crcClear s).dout1 = s.dout1 := rfl
@[simp] theorem crcClear_histW (s : State) : (crcClear s).histW = s.histW := rfl
@[simp] theorem crcClear_peakThr (s : State) : (crcClear s).peakThr = s.peakThr := rfl
@[simp] theorem crcClear_peakSep (s : State) : (crcClear s).peakSep = s.peakSep := rfl
@[simp] theorem crcClear_cellNs (s : State) : (crcClear s).cellNs = s.cellNs := rfl
@[simp] theorem crcClear_crc16Initv (s : State) : (crcClear s).crc16Initv = s.crc16Initv := rfl
@[simp] theorem crcClear_crc16 (s : State) : (crcClear s).crc16 = s.crc16Initv := rfl
@[simp] theorem crcClear_crc32 (s : State) : (crcClear s).crc32 = 0xFFFFFFFF := rfl
@[simp] theorem crcClear_crc32be (s : State) : (crcClear s).crc32be = 0xFFFFFFFF := rfl
@[simp] theorem crcClear_amiacc (s : State) : (crcClear s).amiacc = 0 := rfl
@[simp] theorem crcClear_mfm (s : State) : (crcClear s).mfm = s.mfm := rfl
@[simp] theorem crcClear_m2 (s : State) : (crcClear s).m2 = s.m2 := rfl
@[simp] theorem crcClear_fm (s : State) : (crcClear s).fm = s.fm := rfl
@[simp] theorem crcClear_g5 (s : State) : (crcClear s).g5 = s.g5 := rfl
@[simp] theorem crcClear_aplsr (s : State) : (crcClear s).aplsr = s.aplsr := rfl
@[simp] theorem crcClear_apro (s : State) : (crcClear s).apro = s.apro := rfl
@[simp] theorem crcClear_enc (s : State) : (crcClear s).enc = s.enc := rfl
@[simp] theorem crcClear_mem (s : State) : (crcClear s).mem = s.mem := rfl
@[simp] theorem crcClear_fluxcnt (s : State) : (crcClear s).fluxcnt = s.fluxcnt := rfl
@[simp] theorem crcClear_histMin (s : State) : (crcClear s).histMin = s.histMin := rfl
@[simp] theorem crcClear_histNb (s : State) : (crcClear s).histNb = s.histNb := rfl
@[simp] theorem crcClear_histOor (s : State) : (crcClear s).histOor = s.histOor := rfl
@[simp] theorem crcClear_histValid (s : State) : (crcClear s).histValid = s.histValid := rfl
@[simp] theorem crcClear_peaksValid (s : State) : (crcClear s).peaksValid = s.peaksValid := rfl
@[simp] theorem crcClear_classValid (s : State) : (crcClear s).classValid = s.classValid := rfl
@[simp] theorem crcClear_peakN (s : State) : (crcClear s).peakN = s.peakN := rfl
@[simp] theorem crcClear_peaks (s : State) : (crcClear s).peaks = s.peaks := rfl
@[simp] theorem crcClear_reading (s : State) : (crcClear s).reading = s.reading := rfl
@[simp] theorem crcClear_pending (s : State) : (crcClear s).pending = s.pending := rfl
@[simp] theorem crcClear_lastRead (s : State) : (crcClear s).lastRead = s.lastRead := rfl

/-! FLUX.CLR and SRST mask bit 7 (R380, R431). -/

@[simp] theorem analyserClear_params (s : State) : (analyserClear s).params = s.params := rfl
@[simp] theorem analyserClear_status (s : State) : (analyserClear s).status = s.status := rfl
@[simp] theorem analyserClear_errcode (s : State) : (analyserClear s).errcode = s.errcode := rfl
@[simp] theorem analyserClear_irqEn (s : State) : (analyserClear s).irqEn = s.irqEn := rfl
@[simp] theorem analyserClear_evt (s : State) : (analyserClear s).evt = s.evt := rfl
@[simp] theorem analyserClear_din0 (s : State) : (analyserClear s).din0 = s.din0 := rfl
@[simp] theorem analyserClear_din1 (s : State) : (analyserClear s).din1 = s.din1 := rfl
@[simp] theorem analyserClear_dout0 (s : State) : (analyserClear s).dout0 = s.dout0 := rfl
@[simp] theorem analyserClear_dout1 (s : State) : (analyserClear s).dout1 = s.dout1 := rfl
@[simp] theorem analyserClear_histW (s : State) : (analyserClear s).histW = s.histW := rfl
@[simp] theorem analyserClear_peakThr (s : State) : (analyserClear s).peakThr = s.peakThr := rfl
@[simp] theorem analyserClear_peakSep (s : State) : (analyserClear s).peakSep = s.peakSep := rfl
@[simp] theorem analyserClear_cellNs (s : State) : (analyserClear s).cellNs = s.cellNs := rfl
@[simp] theorem analyserClear_crc16Initv (s : State) :
    (analyserClear s).crc16Initv = s.crc16Initv := rfl
@[simp] theorem analyserClear_crc16 (s : State) : (analyserClear s).crc16 = s.crc16 := rfl
@[simp] theorem analyserClear_crc32 (s : State) : (analyserClear s).crc32 = s.crc32 := rfl
@[simp] theorem analyserClear_crc32be (s : State) : (analyserClear s).crc32be = s.crc32be := rfl
@[simp] theorem analyserClear_amiacc (s : State) : (analyserClear s).amiacc = s.amiacc := rfl
@[simp] theorem analyserClear_mfm (s : State) : (analyserClear s).mfm = s.mfm := rfl
@[simp] theorem analyserClear_m2 (s : State) : (analyserClear s).m2 = s.m2 := rfl
@[simp] theorem analyserClear_fm (s : State) : (analyserClear s).fm = s.fm := rfl
@[simp] theorem analyserClear_g5 (s : State) : (analyserClear s).g5 = s.g5 := rfl
@[simp] theorem analyserClear_aplsr (s : State) : (analyserClear s).aplsr = s.aplsr := rfl
@[simp] theorem analyserClear_apro (s : State) : (analyserClear s).apro = s.apro := rfl
@[simp] theorem analyserClear_enc (s : State) : (analyserClear s).enc = s.enc := rfl
@[simp] theorem analyserClear_mem (s : State) : (analyserClear s).mem = binsClear s.mem := rfl
@[simp] theorem analyserClear_fluxcnt (s : State) : (analyserClear s).fluxcnt = 0 := rfl
@[simp] theorem analyserClear_histMin (s : State) : (analyserClear s).histMin = 0 := rfl
@[simp] theorem analyserClear_histNb (s : State) : (analyserClear s).histNb = 0 := rfl
@[simp] theorem analyserClear_histOor (s : State) : (analyserClear s).histOor = 0 := rfl
@[simp] theorem analyserClear_histValid (s : State) : (analyserClear s).histValid = false := rfl
@[simp] theorem analyserClear_peaksValid (s : State) : (analyserClear s).peaksValid = false := rfl
@[simp] theorem analyserClear_classValid (s : State) : (analyserClear s).classValid = false := rfl
@[simp] theorem analyserClear_peakN (s : State) : (analyserClear s).peakN = 0 := rfl
@[simp] theorem analyserClear_peaks (s : State) : (analyserClear s).peaks = noPeaks := rfl
@[simp] theorem analyserClear_reading (s : State) : (analyserClear s).reading = .cleared := rfl
@[simp] theorem analyserClear_pending (s : State) : (analyserClear s).pending = s.pending := rfl
@[simp] theorem analyserClear_lastRead (s : State) : (analyserClear s).lastRead = s.lastRead := rfl

end Sys2Proof.Machine
end

