-- ==== Sys2Proof/Laws/Words.lean ====
section
/-! SUPPORT. The laws of cell words (spec/00_scope.md R12, spec/40_mfm_fm_m2fm.md R200) and of the packed
events (spec/10_state.md R36). -/

namespace Sys2Proof.Machine

theorem bitOf_eq_ofBool {w : Nat} (v : BitVec w) (i : Nat) : bitOf v i = BitVec.ofBool (v.getLsbD i) := by
  ext k hk
  obtain rfl : k = 0 := by omega
  simp [bitOf]

theorem append_bit {n : Nat} (x : BitVec n) (b : Bool) (i : Nat) :
    (x ++ BitVec.ofBool b).getLsbD i = if i = 0 then b else x.getLsbD (i - 1) := by
  rw [BitVec.getLsbD_append]
  rcases i with _ | i <;> simp

theorem pushCell_getLsbD {w : Nat} (sr : BitVec w) (b : Bool) (i : Nat) (hi : i < w) :
    (pushCell sr b).getLsbD i = if i = 0 then b else sr.getLsbD (i - 1) := by
  rcases i with _ | i
  · cases b <;> simp [pushCell, hi]
  · have hi' : i < w := by omega
    cases b <;> simp [pushCell, hi, BitVec.getLsbD_eq_getElem hi']

theorem pushCell_toNat {w : Nat} (sr : BitVec w) (b : Bool) :
    (pushCell sr b).toNat = (2 * sr.toNat + b.toNat) % 2 ^ w := by
  have h : pushCell sr b = BitVec.ofNat w (2 * sr.toNat + b.toNat) := by
    apply BitVec.eq_of_getLsbD_eq
    intro i hi
    rw [pushCell_getLsbD sr b i hi, BitVec.getLsbD_ofNat]
    rcases i with _ | i
    · cases b <;> simp [hi, Nat.testBit_zero]
    · have h2 : (2 * sr.toNat + b.toNat) / 2 = sr.toNat := by cases b <;> simp; omega
      simp [hi, Nat.testBit_succ, h2, BitVec.getLsbD]
  rw [h, BitVec.toNat_ofNat]

@[simp] theorem cellsOf_length {w : Nat} (v : BitVec w) : (cellsOf v).length = w := by simp [cellsOf]

theorem cellsOf_getElem {w : Nat} (v : BitVec w) (p : Nat) (hp : p < (cellsOf v).length) :
    (cellsOf v)[p] = v.getLsbD (w - 1 - p) := by simp [cellsOf]

/-- Pushing the cells of a word into a register of its width leaves the word. -/
theorem foldl_pushCell_cellsOf_half (v sr : Half) : (cellsOf v).foldl pushCell sr = v := by
  apply BitVec.eq_of_getLsbD_eq
  intro i hi
  have : cellsOf v = [v.getLsbD 15, v.getLsbD 14, v.getLsbD 13, v.getLsbD 12, v.getLsbD 11, v.getLsbD 10,
      v.getLsbD 9, v.getLsbD 8, v.getLsbD 7, v.getLsbD 6, v.getLsbD 5, v.getLsbD 4, v.getLsbD 3,
      v.getLsbD 2, v.getLsbD 1, v.getLsbD 0] := rfl
  rw [this]
  simp only [List.foldl_cons, List.foldl_nil]
  interval_cases i <;>
    simp (disch := omega) only [pushCell_getLsbD, Nat.reduceSub, OfNat.ofNat_ne_zero, one_ne_zero,
      reduceIte]

theorem dat_getLsbD (w : Half) : (i : Nat) → i < 8 → (dat w).getLsbD i = w.getLsbD (2 * i)
  | 0, _ => by
    simp only [dat, bitOf_eq_ofBool]
    iterate 1 erw [append_bit]
    rfl
  | 1, _ => by
    simp only [dat, bitOf_eq_ofBool]
    iterate 2 erw [append_bit]
    rfl
  | 2, _ => by
    simp only [dat, bitOf_eq_ofBool]
    iterate 3 erw [append_bit]
    rfl
  | 3, _ => by
    simp only [dat, bitOf_eq_ofBool]
    iterate 4 erw [append_bit]
    rfl
  | 4, _ => by
    simp only [dat, bitOf_eq_ofBool]
    iterate 5 erw [append_bit]
    rfl
  | 5, _ => by
    simp only [dat, bitOf_eq_ofBool]
    iterate 6 erw [append_bit]
    rfl
  | 6, _ => by
    simp only [dat, bitOf_eq_ofBool]
    iterate 7 erw [append_bit]
    rfl
  | 7, _ => by
    simp only [dat, bitOf_eq_ofBool]
    iterate 7 erw [append_bit]
    simp

theorem clk_getLsbD (w : Half) : (i : Nat) → i < 8 → (clk w).getLsbD i = w.getLsbD (2 * i + 1)
  | 0, _ => by
    simp only [clk, bitOf_eq_ofBool]
    iterate 1 erw [append_bit]
    rfl
  | 1, _ => by
    simp only [clk, bitOf_eq_ofBool]
    iterate 2 erw [append_bit]
    rfl
  | 2, _ => by
    simp only [clk, bitOf_eq_ofBool]
    iterate 3 erw [append_bit]
    rfl
  | 3, _ => by
    simp only [clk, bitOf_eq_ofBool]
    iterate 4 erw [append_bit]
    rfl
  | 4, _ => by
    simp only [clk, bitOf_eq_ofBool]
    iterate 5 erw [append_bit]
    rfl
  | 5, _ => by
    simp only [clk, bitOf_eq_ofBool]
    iterate 6 erw [append_bit]
    rfl
  | 6, _ => by
    simp only [clk, bitOf_eq_ofBool]
    iterate 7 erw [append_bit]
    rfl
  | 7, _ => by
    simp only [clk, bitOf_eq_ofBool]
    iterate 7 erw [append_bit]
    simp

/-! ### The packed events -/

@[simp] theorem pack_byteReady (e : Events) : e.pack.getLsbD 0 = e.byteReady := by
  obtain ⟨a, b, c, d, m, r⟩ := e
  cases a <;> cases b <;> cases c <;> cases d <;> cases m <;> cases r <;> rfl

@[simp] theorem pack_syncDet (e : Events) : e.pack.getLsbD 1 = e.syncDet := by
  obtain ⟨a, b, c, d, m, r⟩ := e
  cases a <;> cases b <;> cases c <;> cases d <;> cases m <;> cases r <;> rfl

@[simp] theorem pack_decErr (e : Events) : e.pack.getLsbD 4 = e.decErr := by
  obtain ⟨a, b, c, d, m, r⟩ := e
  cases a <;> cases b <;> cases c <;> cases d <;> cases m <;> cases r <;> rfl

@[simp] theorem pack_rejected (e : Events) : e.pack.getLsbD 7 = e.rejected := by
  obtain ⟨a, b, c, d, m, r⟩ := e
  cases a <;> cases b <;> cases c <;> cases d <;> cases m <;> cases r <;> rfl

@[simp] theorem pack_default : ({} : Events).pack = 0 := by decide

theorem pack_byte (e : Bool) : ({ byteReady := true, decErr := e } : Events).pack =
    if e then 0x11 else 0x01 := by cases e <;> decide

theorem pack_sync : ({ byteReady := true, syncDet := true } : Events).pack = 0x03 := by decide

theorem pack_decErr_only (e : Bool) : ({ decErr := e } : Events).pack = if e then 0x10 else 0 := by
  cases e <;> decide

end Sys2Proof.Machine
end

