-- ==== Sys2Proof/Tests/Slice0.lean ====
section
/-! SUPPORT. Tests: what the checks of WellFormed.lean refuse, the decoding of words written out from the
opcode map (spec/30_encoding.md R135), one or two small commands per instruction with the results the
spec's examples and vectors give, and a witness for the hypotheses of every statement. -/

namespace Sys2Proof.Tests

open Sys2Proof Sys2Proof.Machine Sys2Proof.Config

/-! ### WellFormed: an ill-formed term for each check -/

theorem test_refuses_opcode_gaps :
    ([0x02, 0x0F, 0x17, 0x1B, 0x1F, 0x25, 0x27, 0x2E, 0x2F, 0x36, 0x3F, 0x43, 0x47, 0x4B, 0x4F, 0x56,
      0xFF] : List (BitVec 8)).all (fun o => !(⟨o, 0, 0⟩ : Command).wellFormed) = true := by decide

theorem test_refuses_selectors :
    ([⟨0x00, 0x01, 0⟩, ⟨0x12, 0x02, 0⟩, ⟨0x16, 0x04, 0⟩, ⟨0x31, 0x02, 0⟩, ⟨0x10, 0xFF, 0⟩] :
      List Command).all (fun c => !c.wellFormed) = true := by decide

theorem test_refuses_wide_immediates :
    ([⟨0x00, 0, 1⟩, ⟨0x01, 0xFF, 1⟩, ⟨0x10, 0, 2⟩, ⟨0x1A, 0, 4⟩, ⟨0x20, 0, 16⟩, ⟨0x21, 0, 32⟩, ⟨0x28, 0, 64⟩,
      ⟨0x11, 0, 256⟩, ⟨0x23, 0, 1024⟩] : List Command).all (fun c => !c.wellFormed) = true := by decide

theorem test_accepts_widest_immediates :
    ([⟨0x01, 0xFF, 0⟩, ⟨0x10, 0, 1⟩, ⟨0x1A, 0, 3⟩, ⟨0x20, 0, 15⟩, ⟨0x21, 0, 31⟩, ⟨0x28, 0, 63⟩,
      ⟨0x11, 0, 255⟩, ⟨0x23, 0, 1023⟩, ⟨0x41, 0, 0xFFFF⟩, ⟨0x16, 3, 0⟩, ⟨0x31, 1, 0⟩] :
      List Command).all (fun c => c.wellFormed) = true := by decide

theorem test_params_legal :
    Params.default.legal = true ∧
    ([{ Params.default with nbins := 0 }, { Params.default with nbins := 1025 },
      { Params.default with fluxDepth := 0 }, { Params.default with fluxDepth := 2 ^ 24 + 1 },
      { Params.default with maxPeaks := 2 }, { Params.default with maxPeaks := 17 }] :
      List Params).all (fun p => !p.legal) = true := by decide

/-! ### Decoding: the words of R135, written out field by field -/

theorem test_decode_control :
    decodeTableWord 32 0x00000000 = some .nop ∧ decodeTableWord 32 0x01000000 = some (.srst 0) ∧
    decodeTableWord 32 0x01FF0000 = some (.srst 0xFF) := by decide

theorem test_decode_mfm :
    decodeTableWord 32 0x10000001 = some (.mfmDecCell true) ∧
    decodeTableWord 32 0x110000A1 = some (.mfmEncByte 0xA1) ∧
    decodeTableWord 32 0x12000000 = some (.mfmEncSync .a1) ∧
    decodeTableWord 32 0x12010000 = some (.mfmEncSync .c2) ∧
    decodeTableWord 32 0x13000001 = some (.mfmEncPrev true) := by decide

theorem test_decode_fm :
    decodeTableWord 32 0x14000000 = some (.fmDecCell false) ∧
    decodeTableWord 32 0x150000A5 = some (.fmEncByte 0xA5) ∧
    decodeTableWord 32 0x16000000 = some (.fmEncMark .idam) ∧
    decodeTableWord 32 0x16010000 = some (.fmEncMark .dam) ∧
    decodeTableWord 32 0x16020000 = some (.fmEncMark .ddam) ∧
    decodeTableWord 32 0x16030000 = some (.fmEncMark .iam) := by decide

theorem test_decode_m2fm :
    decodeTableWord 32 0x18000001 = some (.m2fmDecCell true) ∧
    decodeTableWord 32 0x19000081 = some (.m2fmEncByte 0x81) ∧
    decodeTableWord 32 0x1A000002 = some (.m2fmEncPrev 2) := by decide

theorem test_decode_gcr_cbm :
    decodeTableWord 32 0x20000008 = some (.gcr5EncNib 8) ∧
    decodeTableWord 32 0x21000015 = some (.gcr5DecCode 0x15) ∧
    decodeTableWord 32 0x22000008 = some (.gcr5EncByte 0x08) ∧
    decodeTableWord 32 0x230001EF = some (.gcr5DecWord 0x1EF) ∧
    decodeTableWord 32 0x24000001 = some (.gcr5DecCell true) := by decide

theorem test_decode_gcr_apple :
    decodeTableWord 32 0x2800002A = some (.a62Enc 0x2A) ∧
    decodeTableWord 32 0x290000FF = some (.a62Dec 0xFF) ∧
    decodeTableWord 32 0x2A00001F = some (.a53Enc 31) ∧
    decodeTableWord 32 0x2B0000DE = some (.a53Dec 0xDE) ∧
    decodeTableWord 32 0x2C000001 = some (.aplDecCell true) ∧
    decodeTableWord 32 0x2D0000D5 = some (.aproStep 0xD5) := by decide

theorem test_decode_amiga :
    decodeTableWord 32 0x30000000 = some .amiEncLong ∧
    decodeTableWord 32 0x31000000 = some (.amiEncHalf .odd) ∧
    decodeTableWord 32 0x31010000 = some (.amiEncHalf .even) ∧
    decodeTableWord 32 0x32000000 = some .amiDecLong ∧
    decodeTableWord 32 0x33000001 = some (.amiEncPrev true) ∧
    decodeTableWord 32 0x34000000 = some .amiCsumClr ∧
    decodeTableWord 32 0x35000000 = some .amiCsumAdd := by decide

theorem test_decode_crc :
    decodeTableWord 32 0x40000000 = some .crc16Init ∧
    decodeTableWord 32 0x4100CDB4 = some (.crc16Load 0xCDB4) ∧
    decodeTableWord 32 0x420000FE = some (.crc16Byte 0xFE) ∧
    decodeTableWord 32 0x44000000 = some .crc32Init ∧
    decodeTableWord 32 0x45000000 = some .crc32Load ∧
    decodeTableWord 32 0x46000061 = some (.crc32Byte 0x61) ∧
    decodeTableWord 32 0x48000000 = some .crc32beInit ∧
    decodeTableWord 32 0x49000000 = some .crc32beLoad ∧
    decodeTableWord 32 0x4A000061 = some (.crc32beByte 0x61) := by decide

theorem test_decode_flux :
    decodeTableWord 32 0x50000000 = some .fluxClr ∧ decodeTableWord 32 0x51000000 = some .fluxPush ∧
    decodeTableWord 32 0x52000000 = some .histBuild ∧ decodeTableWord 32 0x53000000 = some .peakFind ∧
    decodeTableWord 32 0x54000000 = some .classify ∧
    decodeTableWord 32 0x55000000 = some .fluxCells := by decide

theorem test_decode_refuses :
    decodeTableWord 32 0x00000001 = none ∧ decodeTableWord 32 0x00010000 = none ∧
    decodeTableWord 32 0x17000000 = none ∧ decodeTableWord 32 0xFF000000 = none := by decide

theorem test_encode :
    encode (.mfmEncByte 0xA1) = 0x110000A1 ∧ encode (.srst 0x01) = 0x01010000 ∧
    encode (.fmEncMark .dam) = 0x16010000 ∧ encode (.crc16Load 0xCDB4) = 0x4100CDB4 := by decide

/-! ### Small steps -/

/-- A part of the state after one command. -/
def after {α : Type} (i : Instr) (s : State) (p : State → α) : Option α := (nextOf (exec i s)).map p

/-- The reset state with the operand registers `a` and `b`. -/
def withDin (a b : Word) : State := { State.reset with din0 := a, din1 := b }

/-- R430: EVT is 0 after NOP. -/
theorem test_nop : after .nop { State.reset with evt := 1 } (·.evt) = some 0 := by decide

/-- R431 example. -/
theorem test_srst :
    after (.srst 0x01)
      { State.reset with mfm := ⟨0x4489, 3, 1, true, true, 0, true⟩, fm := ⟨5, 1, true⟩ }
      (fun t => (t.mfm, t.fm)) = some (.cleared, ⟨5, 1, true⟩) := by decide

/-- R431: mask bit 6 loads CRC16 from CRC16_INITV. -/
theorem test_srst_crc :
    after (.srst 0x40) { State.reset with crc16 := 1, crc16Initv := 0x1D0F } (·.crc16) = some 0x1D0F := by
  decide

/-- R203: the sixteenth cell of A1 (cell 15 after reset, corner case 6, is its last). -/
theorem test_mfmDecCell_sync :
    after (.mfmDecCell true) { State.reset with mfm := ⟨0x2244, 0, 0, false, false, 2, false⟩ }
      (fun t => (t.dout0, t.evt, t.mfm)) =
      some (0xA1, 0x03, ⟨0x4489, 0, 1, true, true, 0, false⟩) := by decide

/-- R203 example: the last cell of 0x5554 after A1 A1 A1 reports 0xFE as IDAM. -/
theorem test_mfmDecCell_idam :
    after (.mfmDecCell false) { State.reset with mfm := ⟨0x2AAA, 15, 3, true, false, 1, false⟩ }
      (fun t => (t.dout0, t.evt, t.mfm.a1cnt)) = some (0xFE, 0x05, 0) := by decide

/-- R206 example. -/
theorem test_mfmEncByte :
    after (.mfmEncByte 0xA1) State.reset (fun t => (t.dout0, t.enc.mfmprev)) = some (0x44A9, true) := by
  decide

/-- R206 corner case. -/
theorem test_mfmEncByte_after_one :
    after (.mfmEncByte 0x00) { State.reset with enc := ⟨true, false, false, false⟩ } (·.dout0) =
      some 0x2AAA := by decide

/-- R207. -/
theorem test_mfmEncSync :
    after (.mfmEncSync .c2) { State.reset with enc := ⟨true, false, false, false⟩ }
      (fun t => (t.dout0, t.enc.mfmprev)) = some (0x5224, false) := by decide

/-- R208. -/
theorem test_mfmEncPrev : after (.mfmEncPrev true) State.reset (·.enc.mfmprev) = some true := by decide

/-- R221 example: the last cell of 0xF57E. -/
theorem test_fmDecCell_mark :
    after (.fmDecCell false) { State.reset with fm := ⟨0x7ABF, 0, false⟩ }
      (fun t => (t.dout0, t.evt, t.fm)) = some (0xFE, 0x07, ⟨0xF57E, 0, true⟩) := by decide

/-- R221 corner case 2: a data byte whose clock bits are not all 1. -/
theorem test_fmDecCell_error :
    after (.fmDecCell true) { State.reset with fm := ⟨0x1555, 15, true⟩ }
      (fun t => (t.dout0, t.evt, t.status)) = some (0x01, 0x11, 0x20) := by decide

/-- R223 example. -/
theorem test_fmEncByte : after (.fmEncByte 0x01) State.reset (·.dout0) = some 0xAAAB := by decide

/-- R224 example. -/
theorem test_fmEncMark : after (.fmEncMark .dam) State.reset (·.dout0) = some 0xF56F := by decide

/-- R231 corner case 1: a run of four 0 cells is no error in M2FM. -/
theorem test_m2fmDecCell :
    after (.m2fmDecCell false) { State.reset with m2 := ⟨0x8888, 3, 0, true, false, 3, false⟩ }
      (fun t => (t.m2.err, t.m2.zrun)) = some (false, 4) := by decide

/-- R231: a run of five is. -/
theorem test_m2fmDecCell_error :
    after (.m2fmDecCell false) { State.reset with m2 := ⟨0x8880, 3, 0, true, false, 4, false⟩ }
      (fun t => (t.m2.err, t.m2.zrun)) = some (true, 5) := by decide

/-- R233 example. -/
theorem test_m2fmEncByte :
    after (.m2fmEncByte 0x00) State.reset (fun t => (t.dout0, t.enc)) = some (0x8888, .cleared) := by
  decide

/-- R234 example: after PREV 2, 0x00 encodes to 0x2222. -/
theorem test_m2fmEncPrev :
    (execAll [.m2fmEncPrev 2, .m2fmEncByte 0x00] State.reset).map (·.dout0) = some 0x2222 := by decide

/-- R262 example. -/
theorem test_gcr5EncNib : after (.gcr5EncNib 8) State.reset (·.dout0) = some 0x09 := by decide

/-- R263 examples. -/
theorem test_gcr5DecCode :
    after (.gcr5DecCode 0x15) State.reset (fun t => (t.dout0, t.evt)) = some (0x0F, 0) ∧
    after (.gcr5DecCode 0x1F) State.reset (fun t => (t.dout0, t.evt, t.status)) =
      some (0x10, 0x10, 0x20) := by decide

/-- R264 examples. -/
theorem test_gcr5EncByte :
    after (.gcr5EncByte 0x08) State.reset (·.dout0) = some 0x149 ∧
    after (.gcr5EncByte 0xFF) State.reset (·.dout0) = some 0x2B5 := by decide

/-- R265 example and corner case. -/
theorem test_gcr5DecWord :
    after (.gcr5DecWord 0x1EF) State.reset (fun t => (t.dout0, t.evt)) = some (0x55, 0) ∧
    after (.gcr5DecWord 0x000) State.reset (fun t => (t.dout0, t.evt)) = some (0, 0x10) := by decide

/-- R267 example: the tenth 1 cell. -/
theorem test_gcr5DecCell_sync :
    after (.gcr5DecCell true) { State.reset with g5 := ⟨0, 0, .hunt, 9⟩ } (fun t => (t.g5, t.evt)) =
      some (⟨0, 0, .sync, 10⟩, 0x02) := by decide

/-- R267 example: the tenth cell of the group 0x149. -/
theorem test_gcr5DecCell_byte :
    after (.gcr5DecCell true) { State.reset with g5 := ⟨0x0A4, 9, .data, 0⟩ }
      (fun t => (t.dout0, t.dout1, t.evt, t.g5)) =
      some (0x08, 0x149, 0x01, ⟨0, 0, .data, 1⟩) := by decide

/-- R292 example. -/
theorem test_a62Enc :
    after (.a62Enc 0x2A) State.reset (·.dout0) = some 0xE6 ∧
    after (.a62Enc 0) State.reset (·.dout0) = some 0x96 := by decide

/-- R293 example. -/
theorem test_a62Dec :
    after (.a62Dec 0xFF) State.reset (fun t => (t.dout0, t.evt)) = some (0x3F, 0) ∧
    after (.a62Dec 0xD5) State.reset (fun t => (t.dout0, t.evt, t.status)) = some (0, 0x10, 0x20) := by
  decide

/-- R294 example. -/
theorem test_a53Enc :
    after (.a53Enc 0) State.reset (·.dout0) = some 0xAB ∧
    after (.a53Enc 31) State.reset (·.dout0) = some 0xFF := by decide

/-- R295 example and corner case. -/
theorem test_a53Dec :
    after (.a53Dec 0xDE) State.reset (fun t => (t.dout0, t.evt)) = some (0x11, 0) ∧
    after (.a53Dec 0x96) State.reset (fun t => (t.dout0, t.evt)) = some (0, 0x10) := by decide

/-- R297: the eighth cell from the first 1 cell completes a byte; a leading 0 cell is skipped. -/
theorem test_aplDecCell :
    after (.aplDecCell true) { State.reset with aplsr := 0x6A } (fun t => (t.dout0, t.aplsr, t.evt)) =
      some (0xD5, 0, 0x01) ∧
    after (.aplDecCell false) State.reset (fun t => (t.aplsr, t.evt)) = some (0, 0) := by decide

/-- R299 corner case 3: D5 D5 AA AD is a DATA_MARK. -/
theorem test_aproStep :
    (execAll [.aproStep 0xD5, .aproStep 0xD5, .aproStep 0xAA, .aproStep 0xAD] State.reset).map
      (fun t => (t.apro, t.evt)) = some (.idle, 0x40) := by decide

/-- R299 corner case 4: DE DE AA EB is no EPILOGUE. -/
theorem test_aproStep_epilogue :
    (execAll [.aproStep 0xDE, .aproStep 0xDE, .aproStep 0xAA, .aproStep 0xEB] State.reset).map
      (·.evt) = some 0 ∧
    (execAll [.aproStep 0xDE, .aproStep 0xAA, .aproStep 0xEB] State.reset).map (·.evt) = some 0x60 := by
  decide

/-- R332 example. -/
theorem test_amiEncLong :
    after .amiEncLong (withDin 0x12345678 0) (fun t => (t.dout0, t.dout1, t.enc.amiprev)) =
      some (0xA912A914, 0x92945452, false) := by decide

/-- R333 example. -/
theorem test_amiEncHalf :
    after (.amiEncHalf .odd) (withDin 0x80000001 0) (fun t => (t.dout0, t.enc.amiprev)) =
      some (0x4AAAAAAA, false) := by decide

/-- R334 example. -/
theorem test_amiDecLong :
    after .amiDecLong (withDin 0xA912A914 0x92945452) (·.dout0) = some 0x12345678 := by decide

/-- R335 example. -/
theorem test_amiEncPrev :
    (execAll [.amiEncPrev true, .amiEncLong] State.reset).map (fun t => (t.dout0, t.dout1)) =
      some (0x2AAAAAAA, 0xAAAAAAAA) := by decide

/-- R336 example. -/
theorem test_amiCsumClr :
    after .amiCsumClr { State.reset with amiacc := 0x55555555 } (readReg .amiCsum) = some 0 := by decide

/-- R337: the last word of the example, added to 0x2AAAAAAA ^ 0xAAAAAAAA. -/
theorem test_amiCsumAdd :
    after .amiCsumAdd { withDin 0x44A94A91 0 with amiacc := 0x80000000 } (·.dout0) = some 0x44014011 := by
  decide

/-- R352, R353. -/
theorem test_crc16_loads :
    after .crc16Init { State.reset with crc16 := 0 } (·.crc16) = some 0xFFFF ∧
    after (.crc16Load 0xCDB4) State.reset (·.crc16) = some 0xCDB4 := by decide

/-- R354: the example and a corner case. -/
theorem test_crc16Byte :
    after (.crc16Byte 0xA1) State.reset (·.dout0) = some 0x443B ∧
    after (.crc16Byte 0x00) State.reset (·.dout0) = some 0xE1F0 := by decide

/-- R350: the check value. -/
theorem test_crc16_check :
    [0x31, 0x32, 0x33, 0x34, 0x35, 0x36, 0x37, 0x38, 0x39].foldl crc16Byte 0xFFFF = 0x29B1 := by
  decide +kernel

/-- R356, R357 example. -/
theorem test_crc32_loads :
    after .crc32Init { State.reset with crc32 := 0 } (readReg .crc32Out) = some 0 ∧
    after .crc32Load (withDin 0x340BC6D9 0) (readReg .crc32Out) = some 0xCBF43926 := by decide

/-- R358: the example and a corner case. -/
theorem test_crc32Byte :
    after (.crc32Byte 0x61) State.reset (·.dout1) = some 0xE8B7BE43 ∧
    after (.crc32Byte 0x00) State.reset (fun t => (t.dout0, t.dout1)) =
      some (0x2DFD1072, 0xD202EF8D) := by decide

/-- R360, R361 example. -/
theorem test_crc32be_loads :
    after .crc32beInit { State.reset with crc32be := 0 } (·.crc32be) = some 0xFFFFFFFF ∧
    (execAll [.crc32beLoad, .crc32beByte 0x01] State.reset).map (·.dout0) = some 0x04C11DB7 := by decide

/-- R362: the example and a corner case. -/
theorem test_crc32beByte :
    after (.crc32beByte 0x61) State.reset (·.dout0) = some 0xE66C6494 ∧
    after (.crc32beByte 0xFF) State.reset (·.dout0) = some 0xFFFFFF00 := by decide

/-- The reset state with samples in the flux memory. -/
def withSamples (l : List Word) : State :=
  { State.reset with
    fluxcnt := BitVec.ofNat 32 l.length
    mem := ⟨(List.range l.length).zip l, [], []⟩ }

/-- R380 example. -/
theorem test_fluxClr :
    after .fluxClr { withSamples [5, 6] with histValid := true }
      (fun t => (t.fluxcnt, t.histValid)) = some (0, false) := by decide

/-- R381 example. -/
theorem test_fluxPush :
    after .fluxPush (withDin 1000 0) (fun t => (t.fluxcnt, t.mem.flux)) = some (1, [(0, 1000)]) := by
  decide

/-- R381: a full memory. -/
theorem test_fluxPush_full :
    after .fluxPush { withSamples [7] with params := { Params.default with fluxDepth := 1 } }
      (fun t => (t.fluxcnt, t.evt, t.status, t.errcode)) = some (1, 0x80, 0x08, 4) := by decide

/-- Two each of 1000, 1500 and 2000 (the shape of R382's example). -/
def clusters : State := withSamples [1000, 1500, 2000, 1500, 1000, 2000]

/-- R382 example. -/
theorem test_histBuild :
    after .histBuild clusters (fun t => (t.histMin, t.histNb, t.mem.binCnt, t.histOor)) =
      some (1000, 101, [(0, 2), (50, 2), (100, 2)], 0) := by decide

/-- R382: samples beyond the bin memory. -/
theorem test_histBuild_oor :
    after .histBuild { clusters with params := { Params.default with nbins := 51 } }
      (fun t => (t.histNb, t.histOor, t.status, t.evt)) = some (51, 2, 0x40, 0) := by decide

/-- The histogram of `clusters`, as R382 gives it. -/
def clusterBins : State :=
  { clusters with
    mem :=
      ⟨clusters.mem.flux, [(0, 2), (50, 2), (100, 2)], [(0, 2000), (50, 3000), (100, 4000)]⟩
    histMin := 1000
    histNb := 101
    histValid := true }

/-- The peaks of R384's example, in its shape. -/
def clusterPeaks : State :=
  { clusterBins with
    peakN := 3
    peaks := peakTable [⟨1000, 2⟩, ⟨1500, 2⟩, ⟨2000, 2⟩]
    peaksValid := true }

/-- R384: a plateau of equal bins yields one candidate, its lowest bin, and a bin of exactly PEAK_THR
percent of the greatest is none. -/
theorem test_peakFind_candidates :
    (List.range 6).filter
        (isCandidate ⟨[], [(0, 1), (2, 20), (3, 20), (5, 2)], []⟩ 6 5 20) = [2, 5] := by
  decide

/-- R384: the window, the rounded mean and the separation. -/
theorem test_peakFind_peak :
    peakAt ⟨[], [(1, 1), (2, 2)], [(1, 1010), (2, 2041)]⟩ 4 2 = ⟨1017, 3⟩ ∧
    [⟨1000, 1⟩, ⟨1499, 1⟩, ⟨1500, 1⟩].foldl (acceptPeak 16 500) [] = [⟨1000, 1⟩, ⟨1500, 1⟩] := by decide

/-- R386 example. -/
theorem test_classify :
    after .classify clusterPeaks
      (fun t => (t.reading, t.peaks[0].lbl, t.peaks[1].lbl, t.peaks[2].lbl)) =
      some (⟨.mfm, 1000, .unknown⟩, 2, 3, 4) := by decide

/-- R386: the bounds of the ratios and of the rates are included. -/
theorem test_classify_bounds :
    classKind 3 1000 1300 2200 = .mfm ∧ classKind 3 1000 1299 2200 = .auto ∧
    classKind 2 1000 1800 0 = .fm ∧ classRate .mfm 2500 = .mfmHd500k ∧
    classRate .mfm 3000 = .mfmDd250k ∧ classRate .mfm 2999 = .unknown := by decide

/-- R390: the example and corner case 3. -/
theorem test_fluxCells :
    after .fluxCells { withDin 2600 0 with cellNs := 1000 } (·.dout0) = some 3 ∧
    after .fluxCells { withDin 1500 0 with cellNs := 1000 } (·.dout0) = some 2 := by decide

/-- R390: CELL_NS is 0 after reset. -/
theorem test_fluxCells_rejected :
    after .fluxCells State.reset (fun t => (t.evt, t.status, t.errcode)) = some (0x80, 0x02, 2) := by
  decide

/-! ### The step -/

/-- The host's fixed names: the step after `withFetchWord` runs the command. -/
theorem test_withFetchWord :
    (nextOf (step (State.reset.withFetchWord 32 0x110000A1))).map (fun t => (t.dout0, t.pending)) =
      some (0x44A9, []) := by decide

/-- R104: a read of an unmapped offset returns 0 and faults. -/
theorem test_read_unmapped :
    (nextOf (step { State.reset with pending := [.access (.read 0x028 4)] })).map
      (fun t => (t.lastRead, t.status, t.errcode, t.evt)) = some (some 0, 0x10, 5, 0) := by decide

/-- R480, log entry 6: an access issued while reset is applied is refused. -/
theorem test_access_in_reset :
    nextOf (step { State.reset with pending := [.accessInReset (.read 0 4)] }) = none := by decide

/-- R139: the text of a command and the word it assembles to. -/
theorem test_assembler :
    commandText (.mfmEncSync .c2) = "MFM.ENC.SYNC C2" ∧ commandText (.srst 255) = "SRST 255" ∧
    commandEvent (.mfmEncByte 0xA1) = .access (.write 0x010 4 0x110000A1) := by decide

/-! ### Witnesses: the hypotheses of each statement can be met

Where the hypothesis is that a command or a step answers a next state, the witness names one. -/

theorem witness_CommandWordsRunOrAreRejected :
    (Command.opcIllegal (commandOfWord 0x02000000).opc.toNat = true ∧
      Command.opcIllegal (commandOfWord 0xFF000000).opc.toNat = true) ∧
    (Command.opcIllegal (commandOfWord 0x12020000).opc.toNat = false ∧
      Command.selLegal (commandOfWord 0x12020000).opc.toNat (commandOfWord 0x12020000).sel.toNat = false) ∧
    (Command.opcIllegal (commandOfWord 0x10000002).opc.toNat = false ∧
      Command.selLegal (commandOfWord 0x10000002).opc.toNat (commandOfWord 0x10000002).sel.toNat = true ∧
      2 ^ Command.immWidth (commandOfWord 0x10000002).opc.toNat ≤ (commandOfWord 0x10000002).imm.toNat) ∧
    (commandOfWord 0x4100FFFF).wellFormed = true ∧ (commandOfWord 0x10000001).wellFormed = true := by
  decide

/-- A state whose next event is a write of `w` to CMD. -/
def cmdPending (w : Word) (s : State) : State := { s with pending := [.access (.write 0x010 4 w)] }

theorem witness_StepRunsDecodedCommand :
    (cmdPending 0x110000A1 State.reset).pending = .access (.write 0x010 4 0x110000A1) :: [] ∧
    decode 0x110000A1 = .ok (.mfmEncByte 0xA1) ∧ decode 0x00000001 = .error .immTooWide ∧
    decode 0x00010000 = .error .illegalSel ∧ decode 0x02000000 = .error .illegalOpc :=
  ⟨rfl, rfl, rfl, rfl, rfl⟩

theorem witness_BusFaultChangesOnlyReport :
    ¬((2 : Nat) = 4 ∧ offsetMapped (0x010 : BitVec 16).toNat = true) ∧
    ¬((4 : Nat) = 4 ∧ offsetMapped (0x002 : BitVec 16).toNat = true) ∧
    ¬((4 : Nat) = 4 ∧ offsetMapped (0x2000 : BitVec 16).toNat = true) ∧
    offsetMapped (0x1FFC : BitVec 16).toNat = true ∧
    ¬((1 : Nat) = 4 ∧ (0x010 : BitVec 16).toNat ∈ writableOffsets) ∧
    ¬((4 : Nat) = 4 ∧ (0x000 : BitVec 16).toNat ∈ writableOffsets) ∧
    ¬((4 : Nat) = 4 ∧ (0x1000 : BitVec 16).toNat ∈ writableOffsets) := by decide

theorem witness_RwRegistersKeepNamedBits :
    ((0x00C, 0x7F) : Nat × Word) ∈ rwMasks ∧ ((0x050, 0xFFFF) : Nat × Word) ∈ rwMasks ∧
    0x040 < 2 ^ 16 ∧ 0x040 ≠ 0x00C ∧ readsAs 0x040 10 State.reset ∧ readsAs 0x1000 0 State.reset :=
  ⟨by decide, by decide, by decide, by decide, fun _ => rfl, fun _ => rfl⟩

theorem witness_MappedRegistersRead :
    (0 < 1024 ∧ readsAs 0x1000 0 State.reset) ∧ 1023 < 1024 ∧ readsAs 0x1FFC 0 State.reset :=
  ⟨⟨by decide, fun _ => rfl⟩, by decide, fun _ => rfl⟩

theorem witness_ViewFieldsRead :
    (((0x0A0, State.reset.mfm) : Nat × Framer) = (0x0A0, State.reset.mfm)) ∧
    ((0x0A4, State.reset.m2) : Nat × Framer) = (0x0A4, State.reset.m2) := ⟨rfl, rfl⟩

theorem witness_IrqIsEnabledStatus :
    irq { State.reset with status := 0x40, irqEn := 0x60 } = true ∧
    (6 < 7 ∧ (0x40 : BitVec 7).getLsbD 6 = true ∧ (0x60 : BitVec 7).getLsbD 6 = true) := by decide

/-- The ranges of the bit positions in the encoders' statements: first and last. -/
theorem witness_encoder_bit_ranges : (0 < 8 ∧ 7 < 8) ∧ 0 < 16 ∧ 15 < 16 := by decide

theorem witness_StatusBitsAreSticky :
    step { State.reset with status := 0x7F } = .next { State.reset with status := 0x7F } ∧
    (0x7F : BitVec 7).getLsbD 6 = true ∧ (0x7F : BitVec 7).getLsbD 0 = true := ⟨rfl, rfl, rfl⟩

theorem witness_AppleCellFramer :
    State.reset.aplsr = 0 ∧ ∀ x ∈ [((0xFF : Byte), 2), (0xD5, 0)], x.1.getLsbD 7 = true := by decide

/-- The nibble that decides in `MfmAddressMarkAfterThreeSyncs`, at both ends of its range and outside it. -/
theorem witness_MfmAddressMarkAfterThreeSyncs :
    (0x40 : Byte).extractLsb' 4 4 = 4 ∧ (0x4F : Byte).extractLsb' 4 4 = 4 ∧
    (0x3F : Byte).extractLsb' 4 4 ≠ 4 ∧ (0x50 : Byte).extractLsb' 4 4 ≠ 4 ∧
    (0xFE : Byte).extractLsb' 4 4 ≠ 4 := by decide

/-- Reached from reset by one A1 sync word, and by three. -/
theorem witness_MfmStreamDecodes :
    (afterEvents (lineEvents (.mfmDecWord 0x4489)) State.reset).map (·.mfm) =
      some ⟨0x4489, 0, 1, true, true, 0, false⟩ ∧
    (afterEvents (programEvents (List.replicate 3 (.mfmDecWord 0x4489))) State.reset).map (·.mfm) =
      some ⟨0x4489, 0, 3, true, true, 0, false⟩ ∧
    (0xFE : Byte).extractLsb' 4 4 ≠ 4 ∧ (0x3F : Byte).extractLsb' 4 4 ≠ 4 ∧
    (0x40 : Byte).extractLsb' 4 4 = 4 ∧ (0x4F : Byte).extractLsb' 4 4 = 4 := by decide +kernel

theorem witness_FmStreamDecodes :
    ({ State.reset with fm := ⟨0xF57E, 0, true⟩ } : State).fm = ⟨(fmMarkRow .idam).word, 0, true⟩ := by
  decide

/-- The hypotheses of `M2fmStreamDecodes` on the framer, the parameters and the bytes. -/
def m2StreamReady (s : State) (ds : List Byte) : Prop :=
  FramerOk s.m2 ∧ s.m2.locked = true ∧ s.m2.phase = 0 ∧ s.m2.err = false ∧ s.m2.zrun.toNat ≤ 3 ∧
  ∀ e ∈ s.params.m2fmSync, ¬ cellsOf e.word <:+:
    (cellsOf s.m2.sr).tail ++ cellsOfWords (m2fmWords (s.m2.sr.getLsbD 0) (s.m2.sr.getLsbD 1) ds)

/-- The state the cell words `ws` lead to from reset, with the default M2FM_SYNC. -/
def m2After (ws : List Half) : State :=
  (afterEvents (programEvents (ws.map .m2fmDecWord)) State.reset).getD State.reset

/-- The hypotheses are met in reachable states: after the sync of R231's example with its four bytes,
after three syncs with 0xFE, and in the middle of the example with `zrun` at its bound of 3. -/
theorem witness_M2fmStreamDecodes :
    m2StreamReady (m2After [0x4489]) [0x00, 0x02, 0x00, 0x81] ∧
    m2StreamReady (m2After [0x4489, 0x4489, 0x4489]) [0xFE] ∧
    (m2After [0x4489, 0x4489, 0x4489]).m2.a1cnt = 3 ∧
    m2StreamReady (m2After [0x4489, 0x2222, 0x2224, 0x8888]) [0x81] ∧
    (m2After [0x4489, 0x2222, 0x2224, 0x8888]).m2.zrun = 3 := by
  refine ⟨⟨⟨?_, ?_, ?_⟩, ?_⟩, ⟨⟨?_, ?_, ?_⟩, ?_⟩, ?_, ⟨⟨?_, ?_, ?_⟩, ?_⟩, ?_⟩ <;> decide +kernel

theorem witness_Gcr5StreamDecodes :
    ({ State.reset with g5 := ⟨0, 0, .sync, 10⟩ } : State).g5 = ⟨0, 0, .sync, 10⟩ ∧
    10 ≤ (10 : BitVec 8).toNat ∧
    ((0x08 : Byte).extractLsb' 4 4).toNat ∈ [0x0, 0x1, 0x4, 0x5, 0x8, 0xC] ∧
    ((0xC7 : Byte).extractLsb' 4 4).toNat ∈ [0x0, 0x1, 0x4, 0x5, 0x8, 0xC] := by decide

theorem witness_Gcr5CodeCommands : (∀ n, gcr5Enc n ≠ 0x08) ∧ ∀ n, gcr5Enc n ≠ 0x1F := by decide

theorem witness_Gcr5GroupCommands : ∀ d, gcr5EncByte d ≠ 0x3FF := by
  have h : ∀ n, gcr5Enc n ≠ 0x1F := by decide
  intro d hd
  refine h (d.extractLsb' 0 4) ?_
  have := congrArg (BitVec.extractLsb' 0 5) hd
  unfold gcr5EncByte at this
  rw [BitVec.extractLsb'_append_eq_right] at this
  exact this

theorem witness_AppleDiskByteCommands :
    a62Table[(0 : BitVec 6).toNat]? = some 0x96 ∧ a62Table[(63 : BitVec 6).toNat]? = some 0xFF ∧
    0xD5 ∉ a62Table ∧ a53Table[(31 : BitVec 5).toNat]? = some 0xFF ∧ 0x96 ∉ a53Table := by decide

theorem witness_PrologueMachine : State.reset.apro = .idle := rfl

theorem witness_FluxPushAppends :
    State.reset.params.legal = true ∧ State.reset.fluxcnt.toNat < State.reset.params.fluxDepth ∧
    ({ State.reset with fluxcnt := 65535 } : State).fluxcnt.toNat < State.reset.params.fluxDepth := by
  decide

theorem witness_HistBuildBins :
    clusters.params.legal = true ∧ clusters.fluxcnt.toNat ≤ clusters.params.fluxDepth ∧
    clusters.fluxcnt ≠ 0 ∧ clusters.histW ≠ 0 := by decide

theorem witness_HistBuildIgnoresOrder :
    (fluxSamples (withSamples [1000, 1500])).Perm
      (fluxSamples { withSamples [1000, 1500] with mem := ⟨[(0, 1500), (1, 1000)], [], []⟩ }) := by
  decide

theorem witness_PeakFindPeaks :
    clusterBins.histValid = true ∧ clusterBins.params.legal = true ∧
    (∀ i, (binCntRead clusterBins.mem i).toNat ≤ clusterBins.params.fluxDepth) ∧
    ∀ i, (binSumRead clusterBins.mem i).toNat ≤
      (binCntRead clusterBins.mem i).toNat * (2 ^ 32 - 1) := by
  refine ⟨rfl, rfl, fun i => ?_, fun i => ?_⟩ <;>
    simp only [clusterBins, clusters, withSamples, State.reset, resetState, Params.default, binCntRead,
      binSumRead, binRead, cellFind] <;>
    by_cases h0 : 0 = i <;> by_cases h1 : 50 = i <;> by_cases h2 : 100 = i <;> simp [h0, h1, h2]

theorem witness_ClassifyReading :
    clusterPeaks.peaksValid = true ∧ clusterPeaks.peakN.toNat ≠ 0 ∧ clusterPeaks.peaks[0].pos ≠ 0 ∧
    ({ clusterPeaks with peakN := 0 } : State).peakN.toNat = 0 := by decide

theorem witness_FluxCellsNearest : ({ State.reset with cellNs := 1 } : State).cellNs ≠ 0 := by decide

theorem witness_OwnChecksReject :
    ({ State.reset with fluxcnt := 65536 } : State).fluxcnt.toNat = State.reset.params.fluxDepth ∧
    ({ State.reset with histW := 0 } : State).histW = 0 ∧
    (State.reset.histW ≠ 0 ∧ State.reset.fluxcnt = 0) ∧ State.reset.histValid = false ∧
    State.reset.peaksValid = false ∧ State.reset.cellNs = 0 := by decide

theorem witness_RejectionChangesOnlyReport :
    runCommand 0x00000001 State.reset = .next (reject .badOperand State.reset) ∧
    (reject .badOperand State.reset).evt.getLsbD 7 = true ∧
    runCommand 0x53000000 State.reset = .next (reject .seqErr State.reset) := ⟨rfl, rfl, rfl⟩

theorem witness_AcceptedCommandReport :
    (∃ t, exec (.a62Dec 0xD5) State.reset = .next t ∧ t.evt.getLsbD 7 = false ∧ t.evt.getLsbD 4 = true) ∧
    exec .classify State.reset = .next (reject .seqErr State.reset) :=
  ⟨⟨_, rfl, rfl, rfl⟩, rfl⟩

theorem witness_ValidityFlagTable :
    (∃ t, step { State.reset with pending := [.reset] } = .next t) ∧
    (∃ t, step (cmdPending 0x54000000 clusterPeaks) = .next t ∧ decode 0x54000000 = .ok .classify ∧
      t.evt.getLsbD 7 = false) ∧
    (∃ t, step (cmdPending 0x00000001 State.reset) = .next t ∧ t.evt.getLsbD 7 = true) ∧
    ∃ t, step { State.reset with pending := [.access (.read 0 4)] } = .next t :=
  ⟨⟨_, rfl⟩, ⟨_, rfl, rfl, rfl⟩, ⟨_, rfl, rfl⟩, ⟨_, rfl⟩⟩

theorem witness_CommandFrame :
    (∃ t, exec .fluxPush State.reset = .next t) ∧ (5 : Nat) ≠ State.reset.fluxcnt.toNat ∧
    (∃ t, exec (.srst 0x7F) State.reset = .next t) ∧
    ∀ m : BitVec 8, m.getLsbD 7 = true → (.srst 0x7F : Instr) ≠ .srst m := by
  refine ⟨⟨_, rfl⟩, by decide, ⟨_, rfl⟩, fun m hm h => ?_⟩
  injection h with h
  subst h
  exact absurd hm (by decide)

theorem witness_UnitsIndependent :
    (∀ m, (.crc16Byte 0x00 : Instr) ≠ .srst m) ∧
    ∃ t, exec (.crc16Byte 0x00) (mixUnits (unitOf (.crc16Byte 0x00)) State.reset clusters State.reset) =
      .next t := ⟨fun _ h => Instr.noConfusion h, _, rfl⟩

theorem witness_PseudoInstructionsRunTheirCommands :
    State.reset.lastRead = none ∧ (∀ r v, (.fluxPushv 1000 : HostLine) ≠ .wr r v) ∧
    (∀ r, (.fluxPushv 1000 : HostLine) ≠ .rd r) ∧ (15 : Nat) < 16 ∧ (9 : Nat) < 10 :=
  ⟨rfl, fun _ _ h => HostLine.noConfusion h, fun _ h => HostLine.noConfusion h, by decide, by decide⟩

/-- A state with an event pending in which the framers' invariant holds: the reset state. -/
theorem witness_StepKeepsFramersInv :
    FramersInv (cmdPending 0x10000001 State.reset) ∧
    ∃ t, step (cmdPending 0x10000001 State.reset) = .next t := by
  refine ⟨⟨⟨?_, ?_, ?_⟩, ⟨?_, ?_, ?_⟩, ?_, ⟨?_, ?_, ?_, ?_⟩, ?_⟩, _, rfl⟩
  · exact fun _ => ⟨rfl, rfl, rfl⟩
  · rfl
  · exact fun k hk => absurd hk (by simp [cmdPending, State.reset, resetState, Framer.cleared])
  · exact fun _ => ⟨rfl, rfl, rfl⟩
  · rfl
  · exact fun k hk => absurd hk (by simp [cmdPending, State.reset, resetState, Framer.cleared])
  · exact fun _ => rfl
  · decide
  · decide
  · exact fun _ => ⟨rfl, rfl⟩
  · decide
  · rfl

/-- Two samples pushed, nothing analysed: the memories' invariant holds. -/
theorem witness_StepKeepsMemoryInv :
    MemoryInv (cmdPending 0x52000000 (withSamples [1000, 1500])) ∧
    ∃ t, step (cmdPending 0x52000000 (withSamples [1000, 1500])) = .next t := by
  refine ⟨⟨rfl, ?_, ?_, ?_, ?_, ?_, ?_, ?_⟩, _, rfl⟩
  · decide
  · decide
  · decide
  · intro i hi
    have h : i < 2 := hi
    interval_cases i <;> decide
  · decide
  · decide
  · decide

/-- The analyser's invariant holds of a block with three peaks found and not yet classified. -/
theorem witness_StepKeepsAnalyserInv :
    MemoryInv (cmdPending 0x54000000 clusterPeaks) ∧ AnalyserInv (cmdPending 0x54000000 clusterPeaks) ∧
    ∃ t, step (cmdPending 0x54000000 clusterPeaks) = .next t := by
  refine ⟨⟨rfl, ?_, ?_, ?_, ?_, ?_, ?_, ?_⟩, ⟨?_, ?_, ?_, ?_, ?_, ?_, ?_, ?_, ?_, ?_, ?_⟩, _, rfl⟩
  · decide
  · decide
  · decide
  · intro i hi
    have h : i < 6 := hi
    interval_cases i <;> decide
  · decide
  · decide
  · decide
  · decide
  · exact fun _ => rfl
  · decide
  · exact witness_PeakFindPeaks.2.2.1
  · exact witness_PeakFindPeaks.2.2.2
  · decide
  · decide
  · decide
  · decide
  · decide
  · decide

theorem witness_StepKeepsReportInv :
    ReportInv (cmdPending 0x00000001 State.reset) ∧
    ∃ t, step (cmdPending 0x00000001 State.reset) = .next t :=
  ⟨⟨by decide, by decide, by decide, by decide, by decide⟩, _, rfl⟩

end Sys2Proof.Tests
end

section
/-! PROOFS. Every step keeps the invariant of the internal memories (spec/10_state.md R56, R57,
spec/45_flux_analyser.md R381, R382). The invariant reads four fields of the state; `exec_memory_cases`
says once what a command can do to them, and each effect on them has one lemma. -/

namespace Sys2Proof.Machine

open Sys2Proof.Config

/-- The legal ranges of R6, as bounds. -/
theorem legal_iff {p : Params} :
    p.legal = true ↔ (1 ≤ p.nbins ∧ p.nbins ≤ 1024) ∧ (1 ≤ p.fluxDepth ∧ p.fluxDepth ≤ 2 ^ 24) ∧
      3 ≤ p.maxPeaks ∧ p.maxPeaks ≤ 16 := by
  simp [Params.legal, and_assoc]

/-! ### What the invariant reads -/

/-- The fields that `MemoryInv` reads. -/
def memoryView (s : State) : Params × Memory × BitVec 32 × BitVec 11 :=
  (s.params, s.mem, s.fluxcnt, s.histNb)

theorem memoryInv_of_memoryView_eq {s t : State} (hv : memoryView t = memoryView s)
    (h : MemoryInv s) : MemoryInv t := by
  simp only [memoryView, Prod.mk.injEq] at hv
  obtain ⟨hp, hm, hf, hn⟩ := hv
  constructor <;> simp only [hp, hm, hf, hn]
  exacts [h.legal, h.wf, h.depth, h.inside, h.written, h.cntInUse, h.sumInUse, h.bins]

/-! ### What serving an event does to it -/

theorem memoryView_serveRead (off : BitVec 16) (size : Nat) (s : State) :
    memoryView (serveRead off size s) = memoryView s := by
  unfold serveRead
  split <;> rfl

theorem memoryView_storeReg (r : Reg) (v : Word) (s : State) :
    memoryView (storeReg r v s) = memoryView s := by
  cases r <;> rfl

theorem memoryView_srstLine (mask : BitVec 8) (bit : Nat) (f : State → State) (s : State)
    (hf : ∀ s, memoryView (f s) = memoryView s) :
    memoryView (srstLine mask bit f s) = memoryView s := by
  rw [srstLine_view memoryView, hf, ite_self]

/-- The analyser's clearing is the last line of a soft reset (R431), and no other line reaches the
memories. -/
theorem softReset_eq_analyserLine (mask : BitVec 8) (s : State) :
    ∃ r, softReset mask s = srstLine mask 7 analyserClear r ∧ memoryView r = memoryView s := by
  refine ⟨_, rfl, ?_⟩
  iterate 7 rw [memoryView_srstLine]
  all_goals exact fun _ => rfl

theorem memoryView_analyserClear_congr {r s : State} (hv : memoryView r = memoryView s) :
    memoryView (analyserClear r) = memoryView (analyserClear s) := by
  simp only [memoryView, Prod.mk.injEq] at hv
  obtain ⟨hp, hm, _, _⟩ := hv
  simp [memoryView, hp, hm]

/-- What a command can do to the memories: nothing (a rejected one among these), clear the analyser
(R380, R431), push a sample (R381), or build the histogram (R382). -/
theorem exec_memory_cases {i : Instr} {s t : State} (h : exec i s = .next t) :
    memoryView t = memoryView s ∨
    memoryView t = memoryView (analyserClear s) ∨
    (s.fluxcnt.toNat ≠ s.params.fluxDepth ∧
      memoryView t =
        (s.params, fluxWrite s.mem s.fluxcnt.toNat (operand0 s), s.fluxcnt + 1, s.histNb)) ∨
    (s.histW ≠ 0 ∧ s.fluxcnt ≠ 0 ∧ memoryView t = memoryView (histBuild s.histW.toNat s)) := by
  cases i
  case srst mask =>
    obtain rfl := Host.Outcome.next.inj h
    obtain ⟨r, hr, hv⟩ := softReset_eq_analyserLine mask (clearEvt s)
    rw [hr, srstLine_view memoryView]
    split
    · exact .inr (.inl (memoryView_analyserClear_congr hv))
    · exact .inl hv
  case mfmEncSync kind => cases kind <;> exact .inl (Host.Outcome.next.inj h ▸ rfl)
  case aplDecCell b =>
    simp only [exec, execAplDecCell] at h
    split at h <;> exact .inl (Host.Outcome.next.inj h ▸ rfl)
  case fluxClr => exact .inr (.inl (Host.Outcome.next.inj h ▸ rfl))
  case fluxPush =>
    simp only [exec, execFluxPush] at h
    split at h
    · exact .inl (Host.Outcome.next.inj h ▸ rfl)
    · exact .inr (.inr (.inl ⟨‹_›, Host.Outcome.next.inj h ▸ rfl⟩))
  case histBuild =>
    simp only [exec, execHistBuild] at h
    split at h
    · exact .inl (Host.Outcome.next.inj h ▸ rfl)
    · split at h
      · exact .inl (Host.Outcome.next.inj h ▸ rfl)
      · exact .inr (.inr (.inr ⟨‹_›, ‹_›, Host.Outcome.next.inj h ▸ rfl⟩))
  case peakFind =>
    simp only [exec, execPeakFind] at h
    split at h <;> exact .inl (Host.Outcome.next.inj h ▸ rfl)
  case classify =>
    simp only [exec, execClassify, classifyPeaks] at h
    split at h
    · obtain rfl := Host.Outcome.next.inj h
      left
      split <;> rfl
    · exact .inl (Host.Outcome.next.inj h ▸ rfl)
  case fluxCells =>
    simp only [exec, execFluxCells] at h
    split at h <;> exact .inl (Host.Outcome.next.inj h ▸ rfl)
  all_goals exact .inl (Host.Outcome.next.inj h ▸ rfl)

/-! ### The bins stay inside those in use -/

/-- Every bin that holds something has an index below `n`. -/
def Bins.Below (n : Nat) (b : Bins) : Prop := (∀ e ∈ b.cnt, e.1 < n) ∧ ∀ e ∈ b.sum, e.1 < n

theorem mem_binWrite {w : Nat} {m : List (Nat × BitVec w)} {i : Nat} {v : BitVec w}
    {e : Nat × BitVec w} (h : e ∈ binWrite m i v) : e.1 = i ∨ e ∈ m := by
  unfold binWrite at h
  split at h
  · exact .inr (mem_of_mem_cellErase h)
  · exact (mem_cellSet h).imp_left (congrArg Prod.fst)

/-- The bin of a sample no greater than `mx` is one of those in use for a greatest sample `mx`. -/
theorem binSample_below {nbins w mn mx v : Nat} {b : Bins} (hv : v ≤ mx)
    (hb : b.Below (binsInUse nbins w mn mx)) :
    (binSample nbins w mn b v).Below (binsInUse nbins w mn mx) := by
  by_cases hi : (v - mn) / w < nbins
  · have hmx : (v - mn) / w ≤ (mx - mn) / w := Nat.div_le_div_right (Nat.sub_le_sub_right hv mn)
    have hin : (v - mn) / w < binsInUse nbins w mn mx := lt_min hi (Nat.lt_succ_of_le hmx)
    rw [binSample_inRange hi]
    exact ⟨fun e he => (mem_binWrite he).elim (· ▸ hin) (hb.1 e),
      fun e he => (mem_binWrite he).elim (· ▸ hin) (hb.2 e)⟩
  · rw [binSample_outOfRange hi]
    exact hb

theorem binSamples_below (nbins w mn : Nat) (l : List Nat) :
    (binSamples nbins w mn l).Below (binsInUse nbins w mn (greatestSample l)) :=
  List.foldlRecOn l (binSample nbins w mn) (by simp [Bins.Below]) fun _ hb v hv =>
    binSample_below ((foldl_max_ge l 0).2 v hv) hb

/-- HIST_NB takes the number of bins in use without loss: NBINS is at most 1024 (R6, R58). -/
theorem histBuild_histNb {s : State} (hl : s.params.legal = true) (w : Nat) :
    (histBuild w s).histNb.toNat =
      binsInUse s.params.nbins w (leastSample (fluxSamples s)) (greatestSample (fluxSamples s)) := by
  have hle : binsInUse s.params.nbins w (leastSample (fluxSamples s)) (greatestSample (fluxSamples s)) ≤
      s.params.nbins := min_le_left _ _
  obtain ⟨⟨_, hn⟩, _⟩ := legal_iff.1 hl
  simp only [histBuild, BitVec.toNat_ofNat]
  exact Nat.mod_eq_of_lt (by omega)

/-! ### The invariant through each effect -/

theorem memoryInv_analyserClear {s : State} (h : MemoryInv s) : MemoryInv (analyserClear s) where
  legal := h.legal
  wf := wf_binsClear h.wf
  depth := Nat.zero_le _
  inside := h.inside
  written := by simp
  cntInUse := by simp [binsClear]
  sumInUse := by simp [binsClear]
  bins := Nat.zero_le _

/-- FLUX.PUSH below FLUX_DEPTH (R381): FLUX_CNT does not wrap, as FLUX_DEPTH is at most 2^24. -/
theorem memoryInv_push {s t : State} (h : MemoryInv s) (v : Word)
    (hd : s.fluxcnt.toNat ≠ s.params.fluxDepth)
    (ht : memoryView t = (s.params, fluxWrite s.mem s.fluxcnt.toNat v, s.fluxcnt + 1, s.histNb)) :
    MemoryInv t := by
  have hlt : s.fluxcnt.toNat < s.params.fluxDepth := lt_of_le_of_ne h.depth hd
  have hcnt : (s.fluxcnt + 1).toNat = s.fluxcnt.toNat + 1 := by
    obtain ⟨_, ⟨_, hmax⟩, _⟩ := legal_iff.1 h.legal
    exact (BitVec.toNat_add _ _).trans (Nat.mod_eq_of_lt (by simp; omega))
  refine memoryInv_of_memoryView_eq
    (s := { s with mem := fluxWrite s.mem s.fluxcnt.toNat v, fluxcnt := s.fluxcnt + 1 }) ht
    { legal := h.legal
      wf := wf_fluxWrite h.wf _ _
      depth := hcnt.trans_le hlt
      inside := fun e he => ?_
      written := fun i hi => ?_
      cntInUse := h.cntInUse
      sumInUse := h.sumInUse
      bins := h.bins }
  · rcases mem_cellSet he with rfl | he
    · exact hlt
    · exact h.inside e he
  · have hi : i < s.fluxcnt.toNat + 1 := hcnt ▸ hi
    simp only [fluxWrite, cellFind_cellSet]
    split
    · rfl
    · exact h.written i (by omega)

theorem memoryInv_histBuild {s : State} (h : MemoryInv s) (w : Nat) : MemoryInv (histBuild w s) := by
  obtain ⟨hcnt, hsum⟩ :=
    binSamples_below s.params.nbins w (leastSample (fluxSamples s)) (fluxSamples s)
  obtain ⟨⟨hrc, hzc⟩, hrs, hzs⟩ :=
    binSamples_canonical s.params.nbins w (leastSample (fluxSamples s)) (fluxSamples s)
  rw [← histBuild_histNb h.legal] at hcnt hsum
  exact
    { legal := h.legal
      wf := ⟨h.wf.1, hrc, hzc, hrs, hzs⟩
      depth := h.depth
      inside := h.inside
      written := h.written
      cntInUse := hcnt
      sumInUse := hsum
      bins := (histBuild_histNb h.legal w).trans_le (min_le_left _ _) }

theorem memoryInv_hardwareReset {s : State} (h : MemoryInv s) : MemoryInv (hardwareReset s) where
  legal := h.legal
  wf := wf_reset
  depth := Nat.zero_le _
  inside := by simp [hardwareReset, resetState]
  written := by simp [hardwareReset, resetState]
  cntInUse := by simp [hardwareReset, resetState]
  sumInUse := by simp [hardwareReset, resetState]
  bins := Nat.zero_le _

/-! ### Commands and steps -/

theorem memoryInv_exec {i : Instr} {s t : State} (h : MemoryInv s) (he : exec i s = .next t) :
    MemoryInv t := by
  rcases exec_memory_cases he with hv | hv | ⟨hd, hv⟩ | ⟨_, _, hv⟩
  · exact memoryInv_of_memoryView_eq hv h
  · exact memoryInv_of_memoryView_eq hv (memoryInv_analyserClear h)
  · exact memoryInv_push h _ hd hv
  · exact memoryInv_of_memoryView_eq hv (memoryInv_histBuild h _)

theorem memoryInv_runCommand {w : Word} {s t : State} (h : MemoryInv s)
    (hr : runCommand w s = .next t) : MemoryInv t := by
  cases hd : decode w with
  | ok i => exact memoryInv_exec h (runCommand_ok hd s ▸ hr)
  | error e =>
    obtain rfl := Host.Outcome.next.inj ((runCommand_error hd s).symm.trans hr)
    exact memoryInv_of_memoryView_eq (s := s) rfl h

theorem memoryInv_serveWrite {off : BitVec 16} {size : Nat} {v : Word} {s t : State}
    (h : MemoryInv s) (hw : serveWrite off size v s = .next t) : MemoryInv t := by
  rcases serveWrite_cases off size v s with he | ⟨_, he⟩ | ⟨_, he⟩ | ⟨r, _, _, he⟩ <;> rw [he] at hw
  · exact memoryInv_of_memoryView_eq (Host.Outcome.next.inj hw ▸ rfl) h
  · exact memoryInv_runCommand h hw
  · exact memoryInv_of_memoryView_eq (Host.Outcome.next.inj hw ▸ rfl) h
  · exact memoryInv_of_memoryView_eq (Host.Outcome.next.inj hw ▸ memoryView_storeReg r v s) h

/-- Settles O57, by the cases of a step: only FLUX.CLR, SRST, FLUX.PUSH, HIST.BUILD and hardware reset
reach the memories, and each keeps the invariant. -/
theorem stepKeepsMemoryInv : Obligations.StepKeepsMemoryInv := by
  unfold Obligations.StepKeepsMemoryInv
  intro s t h hstep
  have htake : ∀ rest, MemoryInv (takeEvent rest s) := fun _ =>
    memoryInv_of_memoryView_eq (s := s) rfl h
  rcases step_cases hstep with
    ⟨_, rfl⟩ | ⟨off, size, rest, _, rfl⟩ | ⟨off, size, v, rest, _, hw⟩ | ⟨rest, _, rfl⟩
  · exact h
  · exact memoryInv_of_memoryView_eq (memoryView_serveRead off size _) (htake rest)
  · exact memoryInv_serveWrite (htake rest) hw
  · exact memoryInv_hardwareReset (htake rest)

end Sys2Proof.Machine
end

section
/-! PROOFS. What a step keeps and what a command can do: the packaging of a step's invariant, and one
lemma each on the configuration registers, the framers, the analyser and the error report that says
everything a command can do to them. -/

namespace Sys2Proof.Machine

open Sys2Proof.Config

/-! ### A property that every step keeps -/

/-- A property that the updates shared by all events keep, and every command, is kept by every step. -/
theorem step_keeps {P : State → Prop}
    (hqueue : ∀ (s : State) rest r, P s → P { s with pending := rest, lastRead := r })
    (hfault : ∀ s, P s → P (busFault s))
    (hreject : ∀ c s, P s → P (reject c s))
    (hclear : ∀ v s, P s → P (clearStatus v s))
    (hstore : ∀ r v s, P s → P (storeReg r v s))
    (hreset : ∀ s, P s → P (hardwareReset s))
    (hexec : ∀ i s t, P s → exec i s = .next t → P t)
    {s t : State} (hs : P s) (h : step s = .next t) : P t := by
  have htake : ∀ rest, P (takeEvent rest s) := fun rest => hqueue s rest none hs
  rcases step_cases h with
    ⟨_, rfl⟩ | ⟨off, size, rest, _, rfl⟩ | ⟨off, size, v, rest, _, hw⟩ | ⟨rest, _, rfl⟩
  · exact hs
  · unfold serveRead
    split
    · exact hqueue _ rest _ (htake rest)
    · exact hqueue _ rest _ (hfault _ (htake rest))
  · rcases serveWrite_cases off size v (takeEvent rest s) with
      he | ⟨_, he⟩ | ⟨_, he⟩ | ⟨r, _, _, he⟩ <;> rw [he] at hw
    · exact Host.Outcome.next.inj hw ▸ hfault _ (htake rest)
    · cases hd : decode v with
      | ok i => exact hexec i _ t (htake rest) (runCommand_ok hd _ ▸ hw)
      | error e =>
        rw [runCommand_error hd] at hw
        exact Host.Outcome.next.inj hw ▸ hreject _ _ (htake rest)
    · exact Host.Outcome.next.inj hw ▸ hclear v _ (htake rest)
    · exact Host.Outcome.next.inj hw ▸ hstore r v _ (htake rest)
  · exact hreset _ (htake rest)

/-- A view of the state that only commands and hardware reset change: it sees neither the event queue,
nor the error report, nor what the host writes. -/
structure CommandView {α : Type} (p : State → α) : Prop where
  queue : ∀ (s : State) rest r, p { s with pending := rest, lastRead := r } = p s
  report : ∀ (s : State) e st c, p { s with evt := e, status := st, errcode := c } = p s
  store : ∀ r v s, p (storeReg r v s) = p s

/-- A property of such a view is kept by every step if hardware reset and every command keep it. -/
theorem CommandView.step_keeps {α : Type} {p : State → α} (hp : CommandView p) {P : State → Prop}
    (hcongr : ∀ s t, p t = p s → P s → P t)
    (hreset : ∀ s, P s → P (hardwareReset s))
    (hexec : ∀ i s t, P s → exec i s = .next t → P t)
    {s t : State} (hs : P s) (h : step s = .next t) : P t :=
  Machine.step_keeps (fun s rest r => hcongr _ _ (hp.queue s rest r))
    (fun s => hcongr _ _ (hp.report s s.evt _ _)) (fun _ s => hcongr _ _ (hp.report s _ _ _))
    (fun _ s => hcongr _ _ (hp.report s s.evt _ s.errcode))
    (fun r v s => hcongr _ _ (hp.store r v s)) hreset hexec hs h

/-! ### The commands with a check of their own (R442 items 4 to 6), and the one with two outcomes -/

section
variable {s t : State}

theorem exec_fluxPush_cases (h : exec .fluxPush s = .next t) :
    (s.fluxcnt.toNat = s.params.fluxDepth ∧ t = reject .fluxFull s) ∨
    (s.fluxcnt.toNat ≠ s.params.fluxDepth ∧
      t = { clearEvt s with
            mem := fluxWrite s.mem s.fluxcnt.toNat (operand0 s)
            fluxcnt := s.fluxcnt + 1
            histValid := false
            peaksValid := false
            classValid := false }) := by
  simp only [exec, execFluxPush] at h
  split at h
  · exact .inl ⟨‹_›, (Host.Outcome.next.inj h).symm⟩
  · exact .inr ⟨‹_›, (Host.Outcome.next.inj h).symm⟩

theorem exec_histBuild_cases (h : exec .histBuild s = .next t) :
    (s.histW = 0 ∧ t = reject .badOperand s) ∨
    (s.histW ≠ 0 ∧ s.fluxcnt = 0 ∧ t = reject .seqErr s) ∨
    (s.histW ≠ 0 ∧ s.fluxcnt ≠ 0 ∧ t = histBuild s.histW.toNat s) := by
  simp only [exec, execHistBuild] at h
  split at h
  · exact .inl ⟨‹_›, (Host.Outcome.next.inj h).symm⟩
  · split at h
    · exact .inr (.inl ⟨‹_›, ‹_›, (Host.Outcome.next.inj h).symm⟩)
    · exact .inr (.inr ⟨‹_›, ‹_›, (Host.Outcome.next.inj h).symm⟩)

theorem exec_peakFind_cases (h : exec .peakFind s = .next t) :
    (s.histValid = false ∧ t = reject .seqErr s) ∨
    (s.histValid = true ∧
      t = { clearEvt s with
            peakN := BitVec.ofNat 5 (findPeaks s).length
            peaks := peakTable (findPeaks s)
            peaksValid := true
            classValid := false }) := by
  simp only [exec, execPeakFind] at h
  split at h
  · exact .inr ⟨‹_›, (Host.Outcome.next.inj h).symm⟩
  · exact .inl ⟨Bool.eq_false_iff.2 ‹_›, (Host.Outcome.next.inj h).symm⟩

theorem exec_classify_cases (h : exec .classify s = .next t) :
    (s.peaksValid = false ∧ t = reject .seqErr s) ∨
    (s.peaksValid = true ∧ t = classifyPeaks s) := by
  simp only [exec, execClassify] at h
  split at h
  · exact .inr ⟨‹_›, (Host.Outcome.next.inj h).symm⟩
  · exact .inl ⟨Bool.eq_false_iff.2 ‹_›, (Host.Outcome.next.inj h).symm⟩

theorem exec_fluxCells_cases (h : exec .fluxCells s = .next t) :
    (s.cellNs = 0 ∧ t = reject .badOperand s) ∨
    (s.cellNs ≠ 0 ∧
      t = { clearEvt s with
            dout0 := BitVec.ofNat 32 (fluxCells (operand0 s).toNat s.cellNs.toNat) }) := by
  simp only [exec, execFluxCells] at h
  split at h
  · exact .inl ⟨‹_›, (Host.Outcome.next.inj h).symm⟩
  · exact .inr ⟨‹_›, (Host.Outcome.next.inj h).symm⟩

theorem exec_aplDecCell_cases {b : Bool} (h : exec (.aplDecCell b) s = .next t) :
    ((pushCell s.aplsr b).getLsbD 7 = true ∧
      t = emit { byteReady := true } { s with dout0 := zext32 (pushCell s.aplsr b), aplsr := 0 }) ∨
    ((pushCell s.aplsr b).getLsbD 7 = false ∧
      t = { clearEvt s with aplsr := pushCell s.aplsr b }) := by
  simp only [exec, execAplDecCell] at h
  split at h
  · exact .inl ⟨‹_›, (Host.Outcome.next.inj h).symm⟩
  · exact .inr ⟨Bool.eq_false_iff.2 ‹_›, (Host.Outcome.next.inj h).symm⟩

/-- An accepted CLASSIFY (R386) relabels the table, gives a reading, and sets class_valid; without a
first peak at a positive position the labels and the reading are 0. -/
theorem classifyPeaks_cases (s : State) :
    ((s.peakN.toNat = 0 ∨ peakPos s 0 = 0) ∧
      classifyPeaks s =
        { clearEvt s with
          peaks := relabel (fun _ _ _ => 0) s.peaks
          reading := .cleared
          classValid := true }) ∨
    (s.peakN.toNat ≠ 0 ∧ peakPos s 0 ≠ 0 ∧ ∃ kind,
      kind = classKind s.peakN.toNat (peakPos s 0) (peakPos s 1) (peakPos s 2) ∧
      classifyPeaks s =
        { clearEvt s with
          peaks := relabel
            (fun k pos old => if k < s.peakN.toNat then peakLabel (peakPos s 0) pos.toNat else old)
            s.peaks
          reading :=
            { kind := kind
              bitCellNs := if kind = .auto then 0 else BitVec.ofNat 32 (peakPos s 0)
              rate := classRate kind (peakPos s 0) }
          classValid := true }) := by
  unfold classifyPeaks
  by_cases h : s.peakN.toNat = 0 ∨ peakPos s 0 = 0
  · exact .inl ⟨h, if_pos h⟩
  · exact .inr ⟨fun hn => h (.inl hn), fun hp => h (.inr hp), _, rfl, if_neg h⟩

end

/-! ### What a command can do to each part of the state -/

/-- R494: a command other than SRST changes its own unit, DOUT0, DOUT1, EVT, STATUS and ERRCODE alone. -/
theorem exec_frame {i : Instr} (hi : ∀ m, i ≠ .srst m) {s t : State} (h : exec i s = .next t) :
    t = { mixUnits (unitOf i) t s s with
          evt := t.evt, status := t.status, errcode := t.errcode, dout0 := t.dout0, dout1 := t.dout1 } := by
  cases i
  case srst mask => exact absurd rfl (hi mask)
  case mfmEncSync kind => cases kind <;> exact Host.Outcome.next.inj h ▸ rfl
  case aplDecCell b => rcases exec_aplDecCell_cases h with ⟨_, rfl⟩ | ⟨_, rfl⟩ <;> rfl
  case fluxPush => rcases exec_fluxPush_cases h with ⟨_, rfl⟩ | ⟨_, rfl⟩ <;> rfl
  case histBuild => rcases exec_histBuild_cases h with ⟨_, rfl⟩ | ⟨_, _, rfl⟩ | ⟨_, _, rfl⟩ <;> rfl
  case peakFind => rcases exec_peakFind_cases h with ⟨_, rfl⟩ | ⟨_, rfl⟩ <;> rfl
  case classify =>
    rcases exec_classify_cases h with ⟨_, rfl⟩ | ⟨_, rfl⟩
    · rfl
    · rcases classifyPeaks_cases s with ⟨_, he⟩ | ⟨_, _, _, _, he⟩ <;> rw [he] <;> rfl
  case fluxCells => rcases exec_fluxCells_cases h with ⟨_, rfl⟩ | ⟨_, rfl⟩ <;> rfl
  all_goals exact Host.Outcome.next.inj h ▸ rfl

/-- The registers that no command writes (R37, R39), with the model's own `params`, `pending` and
`lastRead`. -/
def configView (s : State) :=
  (s.params, s.irqEn, s.din0, s.din1, s.histW, s.peakThr, s.peakSep, s.cellNs, s.crc16Initv,
    s.pending, s.lastRead)

theorem exec_configView {i : Instr} {s t : State} (h : exec i s = .next t) :
    configView t = configView s := by
  by_cases hi : ∃ m, i = .srst m
  · obtain ⟨mask, rfl⟩ := hi
    obtain rfl := Host.Outcome.next.inj h
    refine softReset_frame configView mask (clearEvt s) ?_ ?_ ?_ ?_ ?_ ?_ ?_ ?_ <;> exact fun _ => rfl
  · rw [exec_frame (fun m hm => hi ⟨m, hm⟩) h]
    rfl

/-- The state of the five framers (R49 to R53). -/
def framersView (s : State) := (s.mfm, s.m2, s.fm, s.g5, s.aplsr)

/-- What a command can do to the framers: nothing, push a cell into one, or reset those that SRST names
(R431). -/
theorem exec_framersView_cases {i : Instr} {s t : State} (h : exec i s = .next t) :
    framersView t = framersView s ∨
    (∃ b, framersView t = ((framerStep mfmSyncs 4 s.mfm b).framer, s.m2, s.fm, s.g5, s.aplsr)) ∨
    (∃ b, framersView t =
      (s.mfm, (framerStep s.params.m2fmSync 5 s.m2 b).framer, s.fm, s.g5, s.aplsr)) ∨
    (∃ b, framersView t = (s.mfm, s.m2, (fmFramerStep s.fm b).framer, s.g5, s.aplsr)) ∨
    (∃ b, framersView t = (s.mfm, s.m2, s.fm, (gcr5FramerStep s.g5 b).framer, s.aplsr)) ∨
    (∃ b, framersView t = (s.mfm, s.m2, s.fm, s.g5,
      if (pushCell s.aplsr b).getLsbD 7 then 0 else pushCell s.aplsr b)) ∨
    (∃ m : BitVec 8, framersView t =
      (if m.getLsbD 0 then .cleared else s.mfm, if m.getLsbD 2 then .cleared else s.m2,
        if m.getLsbD 1 then .cleared else s.fm, if m.getLsbD 3 then .cleared else s.g5,
        if m.getLsbD 4 then 0 else s.aplsr)) := by
  cases i
  case mfmDecCell b => exact .inr (.inl ⟨b, Host.Outcome.next.inj h ▸ rfl⟩)
  case m2fmDecCell b => exact .inr (.inr (.inl ⟨b, Host.Outcome.next.inj h ▸ rfl⟩))
  case fmDecCell b => exact .inr (.inr (.inr (.inl ⟨b, Host.Outcome.next.inj h ▸ rfl⟩)))
  case gcr5DecCell b => exact .inr (.inr (.inr (.inr (.inl ⟨b, Host.Outcome.next.inj h ▸ rfl⟩))))
  case aplDecCell b =>
    refine .inr (.inr (.inr (.inr (.inr (.inl ⟨b, ?_⟩)))))
    rcases exec_aplDecCell_cases h with ⟨hb, rfl⟩ | ⟨hb, rfl⟩ <;> rw [hb] <;> rfl
  case srst mask =>
    obtain rfl := Host.Outcome.next.inj h
    refine .inr (.inr (.inr (.inr (.inr (.inr ⟨mask, ?_⟩)))))
    simp [framersView, softReset, srstLine_view State.mfm, srstLine_view State.m2,
      srstLine_view State.fm, srstLine_view State.g5, srstLine_view State.aplsr]
  all_goals
    left
    rw [exec_frame (by simp) h]
    rfl

/-- The state of the analyser (R56 to R61), with the parameters it runs under. -/
def analyserView (s : State) :=
  (s.params, s.mem, s.fluxcnt, (s.histMin, s.histNb, s.histOor),
    (s.histValid, s.peaksValid, s.classValid), s.peakN, s.peaks, s.reading)

/-- The analyser's clearing is the last line of a soft reset (R431), and no other line reaches the
analyser. -/
theorem softReset_analyserView (mask : BitVec 8) (s : State) :
    ∃ r, softReset mask s = srstLine mask 7 analyserClear r ∧ analyserView r = analyserView s := by
  refine ⟨_, rfl, ?_⟩
  have line (bit : Nat) (f : State → State) (s : State) (hf : analyserView (f s) = analyserView s) :
      analyserView (srstLine mask bit f s) = analyserView s := by
    rw [srstLine_view analyserView, hf, ite_self]
  iterate 7 rw [line]
  all_goals rfl

theorem analyserView_analyserClear_congr {r s : State} (hv : analyserView r = analyserView s) :
    analyserView (analyserClear r) = analyserView (analyserClear s) := by
  simp only [analyserView, Prod.mk.injEq] at hv
  obtain ⟨hp, hm, _⟩ := hv
  simp [analyserView, hp, hm]

/-- What a command can do to the analyser: nothing (a rejected one among these), or the effect of
FLUX.CLR and of SRST with mask bit 7 (R380, R431), FLUX.PUSH (R381), HIST.BUILD (R382), PEAK.FIND (R384)
or CLASSIFY (R386). -/
theorem exec_analyserView_cases {i : Instr} {s t : State} (h : exec i s = .next t) :
    analyserView t = analyserView s ∨
    ((i = .fluxClr ∨ ∃ m, m.getLsbD 7 = true ∧ i = .srst m) ∧
      analyserView t = analyserView (analyserClear s)) ∨
    (i = .fluxPush ∧ s.fluxcnt.toNat ≠ s.params.fluxDepth ∧
      analyserView t = analyserView
        { s with
          mem := fluxWrite s.mem s.fluxcnt.toNat (operand0 s)
          fluxcnt := s.fluxcnt + 1
          histValid := false
          peaksValid := false
          classValid := false }) ∨
    (i = .histBuild ∧ s.histW ≠ 0 ∧ s.fluxcnt ≠ 0 ∧
      analyserView t = analyserView (histBuild s.histW.toNat s)) ∨
    (i = .peakFind ∧ s.histValid = true ∧
      analyserView t = analyserView
        { s with
          peakN := BitVec.ofNat 5 (findPeaks s).length
          peaks := peakTable (findPeaks s)
          peaksValid := true
          classValid := false }) ∨
    (i = .classify ∧ s.peaksValid = true ∧ analyserView t = analyserView (classifyPeaks s)) := by
  cases i
  case srst mask =>
    obtain rfl := Host.Outcome.next.inj h
    obtain ⟨r, hr, hv⟩ := softReset_analyserView mask (clearEvt s)
    rw [hr, srstLine_view analyserView]
    split
    · exact .inr (.inl ⟨.inr ⟨mask, ‹_›, rfl⟩, analyserView_analyserClear_congr hv⟩)
    · exact .inl hv
  case fluxClr => exact .inr (.inl ⟨.inl rfl, Host.Outcome.next.inj h ▸ rfl⟩)
  case fluxPush =>
    rcases exec_fluxPush_cases h with ⟨_, rfl⟩ | ⟨hd, rfl⟩
    · exact .inl rfl
    · exact .inr (.inr (.inl ⟨rfl, hd, rfl⟩))
  case histBuild =>
    rcases exec_histBuild_cases h with ⟨_, rfl⟩ | ⟨_, _, rfl⟩ | ⟨hw, hc, rfl⟩
    · exact .inl rfl
    · exact .inl rfl
    · exact .inr (.inr (.inr (.inl ⟨rfl, hw, hc, rfl⟩)))
  case peakFind =>
    rcases exec_peakFind_cases h with ⟨_, rfl⟩ | ⟨hv, rfl⟩
    · exact .inl rfl
    · exact .inr (.inr (.inr (.inr (.inl ⟨rfl, hv, rfl⟩))))
  case classify =>
    rcases exec_classify_cases h with ⟨_, rfl⟩ | ⟨hv, rfl⟩
    · exact .inl rfl
    · exact .inr (.inr (.inr (.inr (.inr ⟨rfl, hv, rfl⟩))))
  all_goals
    left
    rw [exec_frame (by simp) h]
    rfl

end Sys2Proof.Machine
end

section
/-! PROOFS. Every step keeps the framers' invariant (spec/10_state.md R49 to R53): each cell step of
`exec_framersView_cases` keeps its framer's part. -/

namespace Sys2Proof.Machine

open Sys2Proof.Config

/-! ### One cell -/

/-- A cell in the MFM or M2FM framer (R203, R231), whatever its sync words and run limit. -/
theorem framerOk_framerStep (syncs : List SyncEntry) (zmax : Nat) {f : Framer} (h : FramerOk f)
    (b : Bool) : FramerOk (framerStep syncs zmax f b).framer where
  unlocked hl := by
    rcases framerStep_cases syncs zmax f b with
      ⟨_, _, _, _, _, he⟩ | ⟨_, hf, he⟩ | ⟨_, _, _, he⟩ | ⟨_, _, _, he⟩ <;> rw [he] at hl ⊢
    · cases hl
    · exact h.unlocked hf
    · cases hl
    · cases hl
  lastCell := by rw [framerStep_sr, framerStep_prev, pushCell_getLsbD _ _ 0 (by decide), if_pos rfl]
  zeros k hk := by
    rw [framerStep_zrun, zeroRun_toNat] at hk
    rw [framerStep_sr]
    cases b with
    | true => simp at hk
    | false =>
      have hk : k < min (f.zrun.toNat + 1) 15 := by simpa using hk
      rw [pushCell_getLsbD _ _ k (by omega)]
      split
      · rfl
      · exact h.zeros (k - 1) (by omega)

theorem framerOk_cleared : FramerOk .cleared := ⟨fun _ => ⟨rfl, rfl, rfl⟩, rfl, by simp [Framer.cleared]⟩

/-- A cell in the FM framer (R221): only an unlocked framer stays unlocked. -/
theorem fmFramerStep_unlocked {f : FmFramer} (h : f.locked = false → f.phase = 0) (b : Bool)
    (hl : (fmFramerStep f b).framer.locked = false) : (fmFramerStep f b).framer.phase = 0 := by
  rcases fmFramerStep_cases f b with
    ⟨_, _, he⟩ | ⟨_, ⟨hf, he⟩ | ⟨_, _, he⟩ | ⟨_, _, he⟩⟩ <;> rw [he] at hl ⊢
  · exact h hf
  · cases hl

/-- A run of 1 cells that is long enough for a sync goes on only with a 1. -/
theorem oneRun_lt_ten {o : BitVec 8} {b : Bool} (h : ¬(b = true ∧ 10 ≤ (oneRun o b).toNat)) :
    (oneRun o b).toNat < 10 := by
  cases b with
  | true => simpa using h
  | false => simp [oneRun]

/-- A cell in the GCR-CBM framer (R267). -/
theorem gcr5Ok_gcr5FramerStep {g : Gcr5Framer} (h : Gcr5Ok g) (b : Bool) :
    Gcr5Ok (gcr5FramerStep g b).framer := by
  rcases gcr5FramerStep_cases g b with
    ⟨_, ho, he⟩ | ⟨hs, ⟨hm, he⟩ | ⟨_, he⟩ | ⟨_, _, he⟩ | ⟨hm, hc, he⟩⟩ <;> rw [he]
  · exact ⟨by simp, by simp, fun _ => ⟨rfl, rfl⟩, by simpa using ho⟩
  · have ho := oneRun_lt_ten hs
    exact ⟨h.count, h.partialGroup, h.noGroup, by simp [hm]; omega⟩
  · have ho := oneRun_lt_ten hs
    exact ⟨by simp, by simp, fun hd => absurd rfl hd, by simp; omega⟩
  · have ho := oneRun_lt_ten hs
    exact ⟨by simp, by simp, fun hd => absurd rfl hd, by simp; omega⟩
  · have ho := oneRun_lt_ten hs
    have hcnt : (g.cnt + 1).toNat = g.cnt.toNat + 1 := by
      have := h.count
      simp [BitVec.toNat_add]; omega
    refine ⟨?_, ?_, fun hd => absurd rfl hd, by simp; omega⟩
    · have := h.count
      show (g.cnt + 1).toNat ≤ 9
      omega
    · have hacc := h.partialGroup
      have hb := b.toNat_lt
      show (pushCell g.acc b).toNat < 2 ^ (g.cnt + 1).toNat
      rw [pushCell_toNat, hcnt, pow_succ]
      exact (Nat.mod_le _ _).trans_lt (by omega)

theorem gcr5Ok_cleared : Gcr5Ok .cleared :=
  ⟨by decide, by decide, fun _ => ⟨rfl, rfl⟩, by decide⟩

/-! ### The framers together -/

theorem framersView_commandView : CommandView framersView where
  queue _ _ _ := rfl
  report _ _ _ _ := rfl
  store r _ _ := by cases r <;> rfl

/-- The framers' invariant, of a state whose framers are the five given. -/
theorem framersInv_of_framersView {s : State} {m n : Framer} {f : FmFramer} {g : Gcr5Framer}
    {a : BitVec 8} (hv : framersView s = (m, n, f, g, a)) (hm : FramerOk m) (hn : FramerOk n)
    (hf : f.locked = false → f.phase = 0) (hg : Gcr5Ok g) (ha : a.getLsbD 7 = false) :
    FramersInv s := by
  simp only [framersView, Prod.mk.injEq] at hv
  obtain ⟨rfl, rfl, rfl, rfl, rfl⟩ := hv
  exact ⟨hm, hn, hf, hg, ha⟩

theorem framersInv_exec {i : Instr} {s t : State} (h : FramersInv s) (he : exec i s = .next t) :
    FramersInv t := by
  rcases exec_framersView_cases he with
    hv | ⟨b, hv⟩ | ⟨b, hv⟩ | ⟨b, hv⟩ | ⟨b, hv⟩ | ⟨b, hv⟩ | ⟨m, hv⟩
  · exact framersInv_of_framersView hv h.mfm h.m2 h.fm h.g5 h.apple
  · exact framersInv_of_framersView hv (framerOk_framerStep _ _ h.mfm b) h.m2 h.fm h.g5 h.apple
  · exact framersInv_of_framersView hv h.mfm (framerOk_framerStep _ _ h.m2 b) h.fm h.g5 h.apple
  · exact framersInv_of_framersView hv h.mfm h.m2 (fmFramerStep_unlocked h.fm b) h.g5 h.apple
  · exact framersInv_of_framersView hv h.mfm h.m2 h.fm (gcr5Ok_gcr5FramerStep h.g5 b) h.apple
  · refine framersInv_of_framersView hv h.mfm h.m2 h.fm h.g5 ?_
    split
    · rfl
    · exact Bool.eq_false_iff.2 ‹_›
  · refine framersInv_of_framersView hv ?_ ?_ ?_ ?_ ?_
    · exact iteInduction (fun _ => framerOk_cleared) fun _ => h.mfm
    · exact iteInduction (fun _ => framerOk_cleared) fun _ => h.m2
    · split
      · exact fun _ => rfl
      · exact h.fm
    · exact iteInduction (fun _ => gcr5Ok_cleared) fun _ => h.g5
    · split
      · rfl
      · exact h.apple

/-- Settles O56, by the cases of a step: only the cell commands, SRST and hardware reset reach the
framers, and each keeps the invariant of the framer it changes. -/
theorem stepKeepsFramersInv : Obligations.StepKeepsFramersInv := by
  unfold Obligations.StepKeepsFramersInv
  intro s t h hstep
  refine framersView_commandView.step_keeps (P := FramersInv) (fun s t hv h => ?_) (fun s _ => ?_)
    (fun i s t h he => framersInv_exec h he) h hstep
  · exact framersInv_of_framersView hv h.mfm h.m2 h.fm h.g5 h.apple
  · exact ⟨framerOk_cleared, framerOk_cleared, fun _ => rfl, gcr5Ok_cleared,
      by simp [hardwareReset, resetState]⟩

end Sys2Proof.Machine
end

section
/-! PROOFS. Every step keeps the invariant of the error report (spec/10_state.md R33, R36,
spec/60_exceptions.md R440, R441): a command rejects, or it emits events of the proper form. -/

namespace Sys2Proof.Machine

/-! ### The events a command emits -/

/-- The events a command that is not rejected can emit (R36): AM_KIND only with BYTE_READY, and MARK
alone. -/
structure Events.Proper (e : Events) : Prop where
  accepted : e.rejected = false
  amWithByte : e.amKind ≠ .notAm → e.byteReady = true
  markAlone : e.mark ≠ .noMark → e = { mark := e.mark }

theorem proper_default : ({} : Events).Proper := ⟨rfl, fun h => absurd rfl h, fun h => absurd rfl h⟩

theorem proper_decErr (d : Bool) : ({ decErr := d } : Events).Proper :=
  ⟨rfl, fun h => absurd rfl h, fun h => absurd rfl h⟩

theorem proper_mark (m : Mark) : ({ mark := m } : Events).Proper :=
  ⟨rfl, fun h => absurd rfl h, fun _ => rfl⟩

/-- Events of a completed byte without a mark. -/
theorem proper_byte (sync : Bool) (k : AmKind) (d : Bool) :
    ({ byteReady := true, syncDet := sync, amKind := k, decErr := d } : Events).Proper :=
  ⟨rfl, fun _ => rfl, fun h => absurd rfl h⟩

theorem framerStep_proper (syncs : List Config.SyncEntry) (zmax : Nat) (f : Framer) (b : Bool) :
    (framerStep syncs zmax f b).events.Proper := by
  rcases framerStep_cases syncs zmax f b with
    ⟨_, _, _, _, _, he⟩ | ⟨_, _, he⟩ | ⟨_, _, _, he⟩ | ⟨_, _, _, he⟩ <;> rw [he]
  · exact proper_byte true .notAm false
  · exact proper_default
  · exact proper_byte false _ _
  · exact proper_default

theorem fmFramerStep_proper (f : FmFramer) (b : Bool) : (fmFramerStep f b).events.Proper := by
  rcases fmFramerStep_cases f b with
    ⟨k, _, he⟩ | ⟨_, ⟨_, he⟩ | ⟨_, _, he⟩ | ⟨_, _, he⟩⟩ <;> rw [he]
  · exact proper_byte true _ false
  · exact proper_default
  · exact proper_byte false .notAm _
  · exact proper_default

theorem gcr5FramerStep_proper (f : Gcr5Framer) (b : Bool) : (gcr5FramerStep f b).events.Proper := by
  rcases gcr5FramerStep_cases f b with
    ⟨_, _, he⟩ | ⟨_, ⟨_, he⟩ | ⟨_, he⟩ | ⟨_, _, he⟩ | ⟨_, _, he⟩⟩ <;> rw [he]
  · exact ⟨rfl, fun h => absurd rfl h, fun h => absurd rfl h⟩
  · exact proper_default
  · exact proper_default
  · exact proper_byte false .notAm _
  · exact proper_default

/-- EVT, STATUS and ERRCODE. -/
def reportView (s : State) := (s.evt, s.status, s.errcode)

theorem reportView_softReset (mask : BitVec 8) (s : State) :
    reportView (softReset mask s) = reportView s := by
  refine softReset_frame reportView mask s ?_ ?_ ?_ ?_ ?_ ?_ ?_ ?_ <;> exact fun _ => rfl

/-- HIST.BUILD emits nothing; it may set STATUS.HIST_OOR (R382). -/
theorem reportView_histBuild (w : Nat) (s : State) :
    reportView (histBuild w s) = (0, s.status, s.errcode) ∨
    reportView (histBuild w s) = (0, s.status ||| statusHistOor, s.errcode) := by
  simp only [reportView, histBuild]
  split
  · exact .inr rfl
  · exact .inl rfl

/-- What a command can do to the report: reject (R441), emit proper events, which may set
STATUS.DEC_ERR (R444), or set STATUS.HIST_OOR without events (R382). -/
theorem exec_report_cases {i : Instr} {s t : State} (h : exec i s = .next t) :
    (∃ c, t = reject c s) ∨
    (∃ e : Events, e.Proper ∧ reportView t = reportView (emit e s)) ∨
    (i = .histBuild ∧ reportView t = (0, s.status ||| statusHistOor, s.errcode)) := by
  have silent (ht : reportView t = (0, s.status, s.errcode)) :
      ∃ e : Events, e.Proper ∧ reportView t = reportView (emit e s) := ⟨{}, proper_default, ht⟩
  cases i
  case mfmDecCell b =>
    exact .inr (.inl ⟨_, framerStep_proper mfmSyncs 4 s.mfm b, Host.Outcome.next.inj h ▸ rfl⟩)
  case m2fmDecCell b =>
    exact .inr (.inl ⟨_, framerStep_proper s.params.m2fmSync 5 s.m2 b, Host.Outcome.next.inj h ▸ rfl⟩)
  case fmDecCell b =>
    exact .inr (.inl ⟨_, fmFramerStep_proper s.fm b, Host.Outcome.next.inj h ▸ rfl⟩)
  case gcr5DecCell b =>
    exact .inr (.inl ⟨_, gcr5FramerStep_proper s.g5 b, Host.Outcome.next.inj h ▸ rfl⟩)
  case gcr5DecCode c =>
    exact .inr (.inl ⟨_, proper_decErr ((gcr5Dec c).getLsbD 4), Host.Outcome.next.inj h ▸ rfl⟩)
  case gcr5DecWord c =>
    exact .inr (.inl ⟨_, proper_decErr (gcr5Word c).2, Host.Outcome.next.inj h ▸ rfl⟩)
  case a62Dec x =>
    exact .inr (.inl ⟨_, proper_decErr (diskByteDecode a62Table x).2, Host.Outcome.next.inj h ▸ rfl⟩)
  case a53Dec x =>
    exact .inr (.inl ⟨_, proper_decErr (diskByteDecode a53Table x).2, Host.Outcome.next.inj h ▸ rfl⟩)
  case aproStep x =>
    exact .inr (.inl ⟨_, proper_mark (apro s.apro x).2, Host.Outcome.next.inj h ▸ rfl⟩)
  case aplDecCell b =>
    rcases exec_aplDecCell_cases h with ⟨_, rfl⟩ | ⟨_, rfl⟩
    · exact .inr (.inl ⟨_, proper_byte false .notAm false, rfl⟩)
    · exact .inr (.inl (silent rfl))
  case srst mask =>
    exact .inr (.inl (silent (Host.Outcome.next.inj h ▸ reportView_softReset mask (clearEvt s))))
  case mfmEncSync kind =>
    cases kind <;> exact .inr (.inl (silent (Host.Outcome.next.inj h ▸ rfl)))
  case fluxPush =>
    rcases exec_fluxPush_cases h with ⟨_, rfl⟩ | ⟨_, rfl⟩
    · exact .inl ⟨_, rfl⟩
    · exact .inr (.inl (silent rfl))
  case histBuild =>
    rcases exec_histBuild_cases h with ⟨_, rfl⟩ | ⟨_, _, rfl⟩ | ⟨_, _, rfl⟩
    · exact .inl ⟨_, rfl⟩
    · exact .inl ⟨_, rfl⟩
    · exact .inr ((reportView_histBuild _ s).imp silent (⟨rfl, ·⟩))
  case peakFind =>
    rcases exec_peakFind_cases h with ⟨_, rfl⟩ | ⟨_, rfl⟩
    · exact .inl ⟨_, rfl⟩
    · exact .inr (.inl (silent rfl))
  case classify =>
    rcases exec_classify_cases h with ⟨_, rfl⟩ | ⟨_, rfl⟩
    · exact .inl ⟨_, rfl⟩
    · refine .inr (.inl (silent ?_))
      rcases classifyPeaks_cases s with ⟨_, he⟩ | ⟨_, _, _, _, he⟩ <;> rw [he] <;> rfl
  case fluxCells =>
    rcases exec_fluxCells_cases h with ⟨_, rfl⟩ | ⟨_, rfl⟩
    · exact .inl ⟨_, rfl⟩
    · exact .inr (.inl (silent rfl))
  all_goals exact .inr (.inl (silent (Host.Outcome.next.inj h ▸ rfl)))

/-! ### The fields of EVT -/

theorem pack_amKind_bits (e : Events) (h : e.amKind = .notAm) : e.pack &&& 0x0C = 0 := by
  obtain ⟨a, b, c, d, m, r⟩ := e
  subst h
  cases a <;> cases b <;> cases d <;> cases m <;> cases r <;> rfl

theorem pack_mark_bits (e : Events) (h : e.mark = .noMark) : e.pack &&& 0x60 = 0 := by
  obtain ⟨a, b, c, d, m, r⟩ := e
  subst h
  cases a <;> cases b <;> cases c <;> cases d <;> cases r <;> rfl

theorem pack_mark_only (m : Mark) : ({ mark := m } : Events).pack &&& 0x9F = 0 := by
  cases m <;> rfl

/-! ### The invariant -/

/-- The part of the invariant about EVT alone. -/
structure EvtOk (v : BitVec 8) : Prop where
  rejectedAlone : v.getLsbD 7 = true → v = 0x80
  markWithByte : v &&& 0x0C ≠ 0 → v.getLsbD 0 = true
  prologueAlone : v &&& 0x60 ≠ 0 → v &&& 0x9F = 0

theorem evtOk_pack {e : Events} (he : e.Proper) : EvtOk e.pack where
  rejectedAlone h := by
    rw [pack_rejected, he.accepted] at h
    cases h
  markWithByte h := by
    rw [pack_byteReady]
    exact he.amWithByte fun hk => h (pack_amKind_bits e hk)
  prologueAlone h := by
    rw [he.markAlone fun hm => h (pack_mark_bits e hm)]
    exact pack_mark_only _

theorem evtOk_rejected : EvtOk 0x80 := ⟨by decide, by decide, by decide⟩

theorem evtOk_zero : EvtOk 0 := ⟨by decide, by decide, by decide⟩

theorem reportInv_iff {s : State} :
    ReportInv s ↔ s.errcode.toNat ≤ 5 ∧ (s.status &&& 0x1F ≠ 0 → s.errcode ≠ 0) ∧ EvtOk s.evt :=
  ⟨fun ⟨hk, hr, h1, h2, h3⟩ => ⟨hk, hr, h1, h2, h3⟩, fun ⟨hk, hr, h1, h2, h3⟩ => ⟨hk, hr, h1, h2, h3⟩⟩

/-- The invariant, of a report whose ERRCODE is unchanged and whose STATUS.ILLEGAL_CMD to STATUS.BUS_ERR
are no more than before. -/
theorem reportInv_of_evtOk {s t : State} (h : ReportInv s) (hv : EvtOk t.evt)
    (hc : t.errcode = s.errcode) (hs : t.status &&& 0x1F ≠ 0 → s.status &&& 0x1F ≠ 0) :
    ReportInv t :=
  reportInv_iff.2 ⟨hc ▸ h.knownCode, fun ht => hc ▸ h.codeRecorded (hs ht), hv⟩

theorem ReportInv.evtOk {s : State} (h : ReportInv s) : EvtOk s.evt := (reportInv_iff.1 h).2.2

/-- The codes of R440 are 1 to 5. -/
theorem errorCode_range (c : ErrorCode) : c.code.toNat ≤ 5 ∧ c.code ≠ 0 := by cases c <;> decide

theorem reportInv_reject (c : ErrorCode) (s : State) : ReportInv (reject c s) :=
  reportInv_iff.2 ⟨(errorCode_range c).1, fun _ => (errorCode_range c).2, evtOk_rejected⟩

theorem reportInv_busFault {s : State} (h : ReportInv s) : ReportInv (busFault s) :=
  reportInv_iff.2 ⟨(errorCode_range .busErr).1, fun _ => (errorCode_range .busErr).2, h.evtOk⟩

theorem reportInv_hardwareReset (s : State) : ReportInv (hardwareReset s) :=
  reportInv_iff.2 ⟨Nat.zero_le 5, fun h => absurd BitVec.zero_and h, evtOk_zero⟩

/-- Clearing STATUS bits (R446) sets none. -/
theorem and_ne_zero_of_and_not {w : Nat} {x y m : BitVec w} (h : (x &&& ~~~y) &&& m ≠ 0) :
    x &&& m ≠ 0 :=
  fun hx => h (by
    rw [BitVec.and_assoc, BitVec.and_comm (~~~y), ← BitVec.and_assoc, hx]
    exact BitVec.zero_and)

theorem reportInv_exec {i : Instr} {s t : State} (h : ReportInv s) (he : exec i s = .next t) :
    ReportInv t := by
  have decErr : ∀ x : BitVec 7, (x ||| statusDecErr) &&& 0x1F = x &&& 0x1F := by decide
  have histOor : ∀ x : BitVec 7, (x ||| statusHistOor) &&& 0x1F = x &&& 0x1F := by decide
  rcases exec_report_cases he with ⟨c, rfl⟩ | ⟨e, hp, hv⟩ | ⟨_, hv⟩
  · exact reportInv_reject c s
  · simp only [reportView, Prod.mk.injEq] at hv
    obtain ⟨hevt, hst, herr⟩ := hv
    refine reportInv_of_evtOk h (hevt ▸ evtOk_pack hp) herr ?_
    rw [hst, emit_status]
    split
    · rw [decErr]; exact id
    · exact id
  · simp only [reportView, Prod.mk.injEq] at hv
    obtain ⟨hevt, hst, herr⟩ := hv
    refine reportInv_of_evtOk h (hevt ▸ evtOk_zero) herr ?_
    rw [hst, histOor]
    exact id

/-- Settles O59, by what each event does to the report: a rejection and a bus fault record a code of
R440, a command without one emits proper events, and a write of STATUS only clears bits. -/
theorem stepKeepsReportInv : Obligations.StepKeepsReportInv := by
  unfold Obligations.StepKeepsReportInv
  intro s t h hstep
  refine step_keeps (P := ReportInv) ?hqueue ?hfault ?hreject ?hclear ?hstore ?hreset ?hexec h hstep
  case hqueue => exact fun s _ _ h => reportInv_of_evtOk h h.evtOk rfl id
  case hfault => exact fun s => reportInv_busFault
  case hreject => exact fun c s _ => reportInv_reject c s
  case hclear => exact fun v s h => reportInv_of_evtOk h h.evtOk rfl and_ne_zero_of_and_not
  case hstore => exact fun r v s h => by cases r <;> exact reportInv_of_evtOk h h.evtOk rfl id
  case hreset => exact fun s _ => reportInv_hardwareReset s
  case hexec => exact fun i s t => reportInv_exec

end Sys2Proof.Machine
end

section
/-! PROOFS. Every step keeps what ties the analyser's results together (spec/10_state.md R59 to R61,
spec/45_flux_analyser.md R382 to R388). The bins are pinned first: what HIST.BUILD leaves in each. -/

namespace Sys2Proof.Machine

open Sys2Proof.Config

/-! ### What HIST.BUILD leaves in a bin (R382) -/

/-- The samples of a list that fall in bin `i`. -/
def samplesOfBin (w mn : Nat) (l : List Nat) (i : Nat) : List Nat :=
  l.filter fun v => (v - mn) / w = i

theorem samplesOfBin_concat (w mn : Nat) (l : List Nat) (v i : Nat) :
    samplesOfBin w mn (l ++ [v]) i =
      samplesOfBin w mn l i ++ if (v - mn) / w = i then [v] else [] := by
  simp [samplesOfBin, List.filter_cons]

theorem binSamples_concat (nbins w mn : Nat) (l : List Nat) (v : Nat) :
    binSamples nbins w mn (l ++ [v]) = binSample nbins w mn (binSamples nbins w mn l) v := by
  simp [binSamples]

/-- The common course of the two halves of the bin memory: each sample in range adds `f` of itself to its
bin, so bin `i` ends with the sum of `f` over the samples that fall in it. -/
theorem binRead_binSamples {n : Nat} (half : Bins → List (Nat × BitVec n)) (f : Nat → Nat)
    {nbins w mn : Nat} (hempty : half ⟨[], [], 0⟩ = [])
    (hrising : ∀ l, Rising (half (binSamples nbins w mn l)))
    (hin : ∀ b v, (v - mn) / w < nbins →
      half (binSample nbins w mn b v) =
        binWrite (half b) ((v - mn) / w) (binRead (half b) ((v - mn) / w) + BitVec.ofNat n (f v)))
    (hout : ∀ b v, ¬(v - mn) / w < nbins → half (binSample nbins w mn b v) = half b)
    (l : List Nat) (i : Nat) :
    binRead (half (binSamples nbins w mn l)) i =
      if i < nbins then BitVec.ofNat n ((samplesOfBin w mn l i).map f).sum else 0 := by
  induction l using List.reverseRecOn with
  | nil => simp [binSamples, hempty, binRead, cellFind, samplesOfBin]
  | append_singleton l v ih =>
    rw [binSamples_concat, samplesOfBin_concat]
    by_cases hv : (v - mn) / w < nbins
    · rw [hin _ _ hv, binRead_binWrite (hrising l)]
      by_cases hi : i = (v - mn) / w
      · subst hi
        simp [ih, hv, BitVec.ofNat_add]
      · simp [ih, hi, Ne.symm hi]
    · rw [hout _ _ hv, ih]
      by_cases hi : i < nbins
      · have hne : (v - mn) / w ≠ i := by omega
        simp [hne]
      · simp [hi]

/-- A bin below NBINS counts the samples that fall in it. -/
theorem binRead_cnt_binSamples (nbins w mn : Nat) (l : List Nat) (i : Nat) :
    binRead (binSamples nbins w mn l).cnt i =
      if i < nbins then BitVec.ofNat 32 (samplesOfBin w mn l i).length else 0 := by
  rw [binRead_binSamples Bins.cnt (fun _ => 1) rfl (fun l => (binSamples_canonical nbins w mn l).1.1)
    (fun b v hv => by rw [binSample_inRange hv]; rfl) (fun b v hv => by rw [binSample_outOfRange hv])]
  simp

/-- A bin below NBINS adds up the samples that fall in it. -/
theorem binRead_sum_binSamples (nbins w mn : Nat) (l : List Nat) (i : Nat) :
    binRead (binSamples nbins w mn l).sum i =
      if i < nbins then BitVec.ofNat 64 (samplesOfBin w mn l i).sum else 0 := by
  rw [binRead_binSamples Bins.sum id rfl (fun l => (binSamples_canonical nbins w mn l).2.1)
    (fun b v hv => by rw [binSample_inRange hv]; rfl) (fun b v hv => by rw [binSample_outOfRange hv])]
  simp

theorem samplesOfBin_length_le (w mn : Nat) (l : List Nat) (i : Nat) :
    (samplesOfBin w mn l i).length ≤ l.length := List.length_filter_le _ _

/-- Samples are 32-bit numbers. -/
theorem fluxSamples_le (s : State) : ∀ v ∈ fluxSamples s, v ≤ 2 ^ 32 - 1 := by
  intro v hv
  obtain ⟨j, _, rfl⟩ := List.mem_map.1 hv
  have := (fluxRead s.mem j).isLt
  omega

theorem samplesOfBin_sum_le {w mn : Nat} {l : List Nat} {b : Nat} (hl : ∀ v ∈ l, v ≤ b) (i : Nat) :
    (samplesOfBin w mn l i).sum ≤ (samplesOfBin w mn l i).length * b :=
  List.sum_le_card_nsmul _ _ fun v hv => hl v (List.mem_of_mem_filter hv)

/-- The samples of the state that fall in bin `i` of a HIST.BUILD with bin width `w`. -/
def stateBin (w : Nat) (s : State) (i : Nat) : List Nat :=
  samplesOfBin w (leastSample (fluxSamples s)) (fluxSamples s) i

theorem stateBin_length_le {s : State} (h : MemoryInv s) (w i : Nat) :
    (stateBin w s i).length ≤ s.params.fluxDepth := by
  refine (samplesOfBin_length_le ..).trans ?_
  rw [fluxSamples_length]
  exact h.depth

/-- The counts of HIST.BUILD do not wrap: FLUX_DEPTH is at most 2^24 (R6, R57). -/
theorem histBuild_binCnt {s : State} (h : MemoryInv s) (w i : Nat) :
    (binCntRead (histBuild w s).mem i).toNat =
      if i < s.params.nbins then (stateBin w s i).length else 0 := by
  obtain ⟨_, ⟨_, hmax⟩, _⟩ := legal_iff.1 h.legal
  have hlen := stateBin_length_le h w i
  have hread : binCntRead (histBuild w s).mem i =
      if i < s.params.nbins then BitVec.ofNat 32 (stateBin w s i).length else 0 :=
    binRead_cnt_binSamples ..
  rw [hread]
  split
  · exact (BitVec.toNat_ofNat _ _).trans (Nat.mod_eq_of_lt (by omega))
  · rfl

/-- The sums of HIST.BUILD do not wrap: 2^24 samples of 32 bits fit in 64 bits (R57). -/
theorem histBuild_binSum {s : State} (h : MemoryInv s) (w i : Nat) :
    (binSumRead (histBuild w s).mem i).toNat =
      if i < s.params.nbins then (stateBin w s i).sum else 0 := by
  obtain ⟨_, ⟨_, hmax⟩, _⟩ := legal_iff.1 h.legal
  have hlen := stateBin_length_le h w i
  have hsum : (stateBin w s i).sum ≤ (stateBin w s i).length * (2 ^ 32 - 1) :=
    samplesOfBin_sum_le (fluxSamples_le s) i
  have hread : binSumRead (histBuild w s).mem i =
      if i < s.params.nbins then BitVec.ofNat 64 (stateBin w s i).sum else 0 :=
    binRead_sum_binSamples ..
  rw [hread]
  split
  · exact (BitVec.toNat_ofNat _ _).trans (Nat.mod_eq_of_lt (by omega))
  · rfl

/-- The least sample falls in bin 0. -/
theorem leastSample_mem_stateBin {s : State} (hc : s.fluxcnt ≠ 0) (w : Nat) :
    leastSample (fluxSamples s) ∈ stateBin w s 0 := by
  have hne : fluxSamples s ≠ [] := by
    intro hnil
    have hlen := congrArg List.length hnil
    rw [fluxSamples_length] at hlen
    exact hc (BitVec.eq_of_toNat_eq hlen)
  exact List.mem_filter.2 ⟨(leastSample_spec hne).1, by simp⟩

/-! ### The peaks of PEAK.FIND (R384) -/

/-- The mean of a window of 32-bit samples is a 32-bit number. -/
theorem peakAt_pos_lt {s : State} (h : AnalyserInv s) (nb i : Nat) :
    (peakAt s.mem nb i).pos < 2 ^ 32 := by
  set c := ((window nb i).map fun j => (binCntRead s.mem j).toNat).sum with hc
  set t := ((window nb i).map fun j => (binSumRead s.mem j).toNat).sum with ht
  have hle : t ≤ c * (2 ^ 32 - 1) := by
    rw [hc, ht, ← List.sum_map_mul_right]
    exact List.sum_le_sum fun j _ => h.sums j
  show (2 * t + c) / (2 * c) < 2 ^ 32
  rcases Nat.eq_zero_or_pos c with h0 | hpos
  · simp [h0]
  · exact Nat.div_lt_of_lt_mul (by omega)

/-- What the separation test accepts was offered to it. -/
theorem mem_of_mem_foldl_acceptPeak {maxPeaks sep : Nat} {p : Peak} :
    ∀ {l acc : List Peak}, p ∈ l.foldl (acceptPeak maxPeaks sep) acc → p ∈ acc ∨ p ∈ l
  | [], _, hp => .inl hp
  | q :: l, acc, hp => by
    rcases mem_of_mem_foldl_acceptPeak (l := l) hp with hp | hp
    · rcases acceptPeak_cases maxPeaks sep acc q with ⟨_, _, he⟩ | ⟨_, he⟩ <;> rw [he] at hp
      · rcases List.mem_append.1 hp with hp | hp
        · exact .inl hp
        · exact .inr (by simp [List.mem_singleton.1 hp])
      · exact .inl hp
    · exact .inr (List.mem_cons_of_mem q hp)

theorem findPeaks_pos_lt {s : State} (h : AnalyserInv s) : ∀ p ∈ findPeaks s, p.pos < 2 ^ 32 := by
  intro p hp
  have hacc := (List.mem_insertionSort _).1 hp
  rcases mem_of_mem_foldl_acceptPeak hacc with hnil | hmem
  · cases hnil
  · obtain ⟨i, _, rfl⟩ := List.mem_map.1 hmem
    exact peakAt_pos_lt h _ i

theorem findPeaks_sorted (s : State) : (findPeaks s).Pairwise fun p q => p.pos ≤ q.pos := by
  have total : Std.Total fun p q : Peak => p.pos ≤ q.pos := ⟨fun p q => le_total p.pos q.pos⟩
  have trans : IsTrans Peak fun p q => p.pos ≤ q.pos := ⟨fun _ _ _ => le_trans⟩
  exact List.pairwise_insertionSort _ _

/-- PEAK_N takes the number of peaks without loss: MAXPEAKS is at most 16 (R6, R60). -/
theorem findPeaks_length_toNat {s : State} (hl : s.params.legal = true) :
    (BitVec.ofNat 5 (findPeaks s).length).toNat = (findPeaks s).length := by
  obtain ⟨_, _, _, hmax⟩ := legal_iff.1 hl
  have := findPeaks_length_le s
  exact (BitVec.toNat_ofNat _ _).trans (Nat.mod_eq_of_lt (by omega))

theorem peakTable_of_lt {l : List Peak} {k : Nat} (hk : k < 16) (hl : k < l.length) :
    (peakTable l)[k] = ⟨BitVec.ofNat 32 l[k].pos, BitVec.ofNat 32 l[k].cnt, 0⟩ := by
  rw [peakTable_getElem l k hk, List.getElem?_eq_getElem hl]

theorem peakTable_of_ge {l : List Peak} {k : Nat} (hk : k < 16) (hl : l.length ≤ k) :
    (peakTable l)[k] = .zero := by
  rw [peakTable_getElem l k hk, List.getElem?_eq_none hl]

/-! ### The invariant through each effect -/

theorem analyserView_commandView : CommandView analyserView where
  queue _ _ _ := rfl
  report _ _ _ _ := rfl
  store r _ _ := by cases r <;> rfl

theorem analyserInv_of_analyserView_eq {s t : State} (hv : analyserView t = analyserView s)
    (h : AnalyserInv s) : AnalyserInv t := by
  simp only [analyserView, Prod.mk.injEq] at hv
  obtain ⟨hp, hm, hf, ⟨_, hn, _⟩, ⟨hh, hpk, hc⟩, hpn, hpt, hr⟩ := hv
  constructor <;> simp only [hp, hm, hf, hn, hh, hpk, hc, hpn, hpt, hr]
  exacts [h.classNeedsPeaks, h.peaksNeedHist, h.histNotEmpty, h.counts, h.sums, h.tableSize,
    h.tableEnd, h.ascending, h.autoCell, h.rateOfMfm, h.shortest]

/-- The part of the invariant about the peak table (R60, R384). -/
structure PeakTableOk (maxPeaks : Nat) (n : BitVec 5) (t : Vector PeakEntry 16) : Prop where
  size : n.toNat ≤ maxPeaks
  tail : ∀ k : Fin 16, n.toNat ≤ k.val → t[k] = .zero
  ascending : ∀ j k : Fin 16, j.val < k.val → k.val < n.toNat → t[j].pos ≤ t[k].pos

theorem AnalyserInv.peakTableOk {s : State} (h : AnalyserInv s) :
    PeakTableOk s.params.maxPeaks s.peakN s.peaks := ⟨h.tableSize, h.tableEnd, h.ascending⟩

theorem peakTableOk_noPeaks (maxPeaks : Nat) : PeakTableOk maxPeaks 0 noPeaks where
  size := Nat.zero_le _
  tail k _ := by simp [noPeaks]
  ascending _ _ _ h := absurd h (Nat.not_lt_zero _)

/-- An analyser that holds nothing: after FLUX.CLR, SRST with mask bit 7, and hardware reset. -/
theorem analyserInv_cleared (s : State) : AnalyserInv (analyserClear s) where
  classNeedsPeaks h := by cases h
  peaksNeedHist h := by cases h
  histNotEmpty h := by cases h
  counts i := Nat.zero_le _
  sums i := Nat.zero_le _
  tableSize := (peakTableOk_noPeaks _).size
  tableEnd := (peakTableOk_noPeaks s.params.maxPeaks).tail
  ascending := (peakTableOk_noPeaks s.params.maxPeaks).ascending
  autoCell := by simp [EncodingReading.cleared]
  rateOfMfm h := by cases h rfl
  shortest h := by cases h

/-- A pushed sample invalidates the results and leaves them (R381, R394). -/
theorem analyserInv_push {s : State} (h : AnalyserInv s) (i : Nat) (v : Word) (c : BitVec 32) :
    AnalyserInv
      { s with
        mem := fluxWrite s.mem i v
        fluxcnt := c
        histValid := false
        peaksValid := false
        classValid := false } where
  classNeedsPeaks h := by cases h
  peaksNeedHist h := by cases h
  histNotEmpty h := by cases h
  counts := h.counts
  sums := h.sums
  tableSize := h.tableSize
  tableEnd := h.tableEnd
  ascending := h.ascending
  autoCell := h.autoCell
  rateOfMfm := h.rateOfMfm
  shortest h := by cases h

theorem analyserInv_histBuild {s : State} (hm : MemoryInv s) (h : AnalyserInv s)
    (hc : s.fluxcnt ≠ 0) (w : Nat) : AnalyserInv (histBuild w s) where
  classNeedsPeaks h := by cases h
  peaksNeedHist h := by cases h
  histNotEmpty _ := by
    obtain ⟨⟨hnb, _⟩, _⟩ := legal_iff.1 hm.legal
    refine ⟨hc, ?_, fun h0 => ?_⟩
    · rw [histBuild_histNb hm.legal]
      exact le_min hnb (Nat.le_add_left 1 _)
    · have hlen := histBuild_binCnt hm w 0
      rw [h0, if_pos (by omega)] at hlen
      exact List.ne_nil_of_mem (leastSample_mem_stateBin hc w) (List.length_eq_zero_iff.1 hlen.symm)
  counts i := by
    rw [histBuild_binCnt hm]
    split
    · exact stateBin_length_le hm w i
    · exact Nat.zero_le _
  sums i := by
    rw [histBuild_binCnt hm, histBuild_binSum hm]
    split
    · exact samplesOfBin_sum_le (fluxSamples_le s) i
    · exact Nat.zero_le _
  tableSize := h.tableSize
  tableEnd := h.tableEnd
  ascending := h.ascending
  autoCell := h.autoCell
  rateOfMfm := h.rateOfMfm
  shortest h := by cases h

theorem peakTableOk_findPeaks {s : State} (hl : s.params.legal = true) (h : AnalyserInv s) :
    PeakTableOk s.params.maxPeaks (BitVec.ofNat 5 (findPeaks s).length) (peakTable (findPeaks s)) where
  size := by
    rw [findPeaks_length_toNat hl]
    exact findPeaks_length_le s
  tail k hk := peakTable_of_ge k.isLt (findPeaks_length_toNat hl ▸ hk)
  ascending j k hjk hk := by
    rw [findPeaks_length_toNat hl] at hk
    have hpos : ∀ i (hi : i < (findPeaks s).length),
        (BitVec.ofNat 32 (findPeaks s)[i].pos).toNat = (findPeaks s)[i].pos := fun i hi =>
      (BitVec.toNat_ofNat _ _).trans (Nat.mod_eq_of_lt (findPeaks_pos_lt h _ (List.getElem_mem hi)))
    show (peakTable (findPeaks s))[j.val].pos ≤ (peakTable (findPeaks s))[k.val].pos
    rw [peakTable_of_lt k.isLt hk, peakTable_of_lt j.isLt (hjk.trans hk), BitVec.le_def,
      hpos _ hk, hpos _ (hjk.trans hk)]
    exact List.pairwise_iff_getElem.1 (findPeaks_sorted s) _ _ (hjk.trans hk) hk hjk

theorem analyserInv_peakFind {s : State} (hl : s.params.legal = true) (h : AnalyserInv s)
    (hv : s.histValid = true) :
    AnalyserInv
      { s with
        peakN := BitVec.ofNat 5 (findPeaks s).length
        peaks := peakTable (findPeaks s)
        peaksValid := true
        classValid := false } where
  classNeedsPeaks _ := rfl
  peaksNeedHist _ := hv
  histNotEmpty := h.histNotEmpty
  counts := h.counts
  sums := h.sums
  tableSize := (peakTableOk_findPeaks hl h).size
  tableEnd := (peakTableOk_findPeaks hl h).tail
  ascending := (peakTableOk_findPeaks hl h).ascending
  autoCell := h.autoCell
  rateOfMfm := h.rateOfMfm
  shortest h := by cases h

/-- Labels that leave the entries beyond the peaks 0 (R386, R388). -/
theorem peakTableOk_relabel {maxPeaks : Nat} {n : BitVec 5} {t : Vector PeakEntry 16}
    (h : PeakTableOk maxPeaks n t) {f : Nat → BitVec 32 → BitVec 8 → BitVec 8}
    (hf : ∀ k, n.toNat ≤ k → f k 0 0 = 0) : PeakTableOk maxPeaks n (relabel f t) where
  size := h.size
  tail k hk := by
    have hz : t[k.val] = .zero := h.tail k hk
    show (relabel f t)[k.val] = .zero
    rw [relabel_getElem f t k k.isLt, hz]
    exact congrArg (PeakEntry.mk 0 0) (hf k hk)
  ascending j k hjk hk := by
    show (relabel f t)[j.val].pos ≤ (relabel f t)[k.val].pos
    rw [relabel_getElem f t j j.isLt, relabel_getElem f t k k.isLt]
    exact h.ascending j k hjk hk

/-- Only MFM has a rate (R386). -/
theorem classRate_ne_unknown {kind : EncKind} {p : Nat} (h : classRate kind p ≠ .unknown) :
    kind = .mfm := by
  by_contra hk
  exact h (by simp [classRate, hk])

theorem analyserInv_classify {s : State} (h : AnalyserInv s) (hv : s.peaksValid = true) :
    AnalyserInv (classifyPeaks s) := by
  have hpos : BitVec.ofNat 32 (peakPos s 0) = s.peaks[0].pos := by
    rw [peakPos_of_lt s (by decide), BitVec.ofNat_toNat, BitVec.setWidth_eq]
  rcases classifyPeaks_cases s with ⟨_, he⟩ | ⟨_, hp, kind, _, he⟩ <;> rw [he]
  · have htab := peakTableOk_relabel h.peakTableOk (f := fun _ _ _ => 0) fun _ _ => rfl
    exact
      { classNeedsPeaks := fun _ => hv
        peaksNeedHist := h.peaksNeedHist
        histNotEmpty := h.histNotEmpty
        counts := h.counts
        sums := h.sums
        tableSize := htab.size
        tableEnd := htab.tail
        ascending := htab.ascending
        autoCell := by simp [EncodingReading.cleared]
        rateOfMfm := fun hr => by cases hr rfl
        shortest := fun _ hk => by cases hk rfl }
  · have htab := peakTableOk_relabel h.peakTableOk
      (f := fun k pos old => if k < s.peakN.toNat then peakLabel (peakPos s 0) pos.toNat else old)
      fun k hk => if_neg hk.not_gt
    have hne : BitVec.ofNat 32 (peakPos s 0) ≠ 0 := fun h0 => hp (by
      rw [peakPos_of_lt s (by decide), ← hpos, h0]
      rfl)
    exact
      { classNeedsPeaks := fun _ => hv
        peaksNeedHist := h.peaksNeedHist
        histNotEmpty := h.histNotEmpty
        counts := h.counts
        sums := h.sums
        tableSize := htab.size
        tableEnd := htab.tail
        ascending := htab.ascending
        autoCell := by
          by_cases hk : kind = .auto
          · simp [hk]
          · simpa [hk] using hne
        rateOfMfm := classRate_ne_unknown
        shortest := fun _ hk => by
          rw [relabel_getElem _ _ 0 (by decide)]
          exact (if_neg hk).trans hpos }

/-- A command keeps the invariant; that of the memories gives HIST.BUILD its bounds. -/
theorem analyserInv_exec {i : Instr} {s t : State} (hm : MemoryInv s) (h : AnalyserInv s)
    (he : exec i s = .next t) : AnalyserInv t := by
  rcases exec_analyserView_cases he with
    hv | ⟨_, hv⟩ | ⟨_, _, hv⟩ | ⟨_, _, hc, hv⟩ | ⟨_, hh, hv⟩ | ⟨_, hp, hv⟩
  · exact analyserInv_of_analyserView_eq hv h
  · exact analyserInv_of_analyserView_eq hv (analyserInv_cleared s)
  · exact analyserInv_of_analyserView_eq hv (analyserInv_push h _ _ _)
  · exact analyserInv_of_analyserView_eq hv (analyserInv_histBuild hm h hc _)
  · exact analyserInv_of_analyserView_eq hv (analyserInv_peakFind hm.legal h hh)
  · exact analyserInv_of_analyserView_eq hv (analyserInv_classify h hp)

/-- Settles O58, by the cases of a step: FLUX.CLR, SRST, FLUX.PUSH, HIST.BUILD, PEAK.FIND, CLASSIFY and
hardware reset reach the analyser, and each keeps the invariant. -/
theorem stepKeepsAnalyserInv : Obligations.StepKeepsAnalyserInv := by
  unfold Obligations.StepKeepsAnalyserInv
  intro s t hm h hstep
  refine (analyserView_commandView.step_keeps (P := fun s => MemoryInv s ∧ AnalyserInv s) ?_ ?_ ?_
    ⟨hm, h⟩ hstep).2
  · intro s t hv ⟨hm, h⟩
    have hview := hv
    simp only [analyserView, Prod.mk.injEq] at hview
    obtain ⟨hp, hmem, hf, ⟨_, hn, _⟩, _⟩ := hview
    exact ⟨memoryInv_of_memoryView_eq (by simp [memoryView, hp, hmem, hf, hn]) hm,
      analyserInv_of_analyserView_eq hv h⟩
  · intro s ⟨hm, _⟩
    exact ⟨memoryInv_hardwareReset hm, analyserInv_of_analyserView_eq rfl
      (analyserInv_cleared (hardwareReset s))⟩
  · exact fun i s t ⟨hm, h⟩ he => ⟨memoryInv_exec hm he, analyserInv_exec hm h he⟩

end Sys2Proof.Machine
end

section
/-! PROOFS. The register space (spec/10_state.md R31 to R62, spec/20_memory.md R100 to R105): what a read
returns, where a register stands, and what a write of a read-write register leaves. -/

namespace Sys2Proof.Machine

open Sys2Proof.Config

/-! ### Where a register stands (R100) -/

theorem peakReg_offset {n : Nat} (hn : n < 0x100) (h4 : n % 4 = 0) :
    (peakReg n).offset = 0x200 + n := by
  unfold peakReg
  split_ifs <;> simp only [Reg.offset, Fin.val_ofNat] <;> omega

theorem lowReg_offset {n : Nat} {r : Reg} (h : lowReg n = some r) : r.offset = n := by
  unfold lowReg at h
  split at h <;> cases h <;> rfl

/-- A mapped offset is the offset of the register that stands there. -/
theorem regAt_offset {n : Nat} {r : Reg} (h : regAt n = some r) : r.offset = n := by
  unfold regAt at h
  split_ifs at h with h4 hp hb
  · obtain rfl := Option.some.inj h
    rw [peakReg_offset] <;> omega
  · obtain rfl := Option.some.inj h
    simp only [Reg.offset, Fin.val_ofNat]
    omega
  · exact lowReg_offset h

theorem regAt_peakTable : ∀ k : Fin 16,
    regAt (0x200 + 16 * k.val) = some (.peakPos k) ∧ regAt (0x204 + 16 * k.val) = some (.peakCnt k) ∧
    regAt (0x208 + 16 * k.val) = some (.peakLbl k) ∧ regAt (0x20C + 16 * k.val) = some (.peakPad k) := by
  decide

theorem regAt_binCnt (i : Fin 1024) : regAt (0x1000 + 4 * i.val) = some (.binCnt i) := by
  have hi := i.isLt
  have hdiv : (0x1000 + 4 * i.val - 0x1000) / 4 = i.val := by omega
  unfold regAt
  rw [if_neg (by omega), if_neg (by omega), if_pos (by omega), hdiv]
  exact congrArg (some ∘ Reg.binCnt) (Fin.ext (Nat.mod_eq_of_lt hi))

/-! ### Reads (R103, R104) -/

/-- What a register reads as does not depend on the queue. -/
theorem readReg_queue (r : Reg) (s : State) (rest : List HostEvent) (x : Option Word) :
    readReg r { s with pending := rest, lastRead := x } = readReg r s := by
  cases r <;> rfl

/-- Every register stands below 0x2000 (R100). -/
theorem Reg.offset_lt (r : Reg) : r.offset < 0x2000 := by
  cases r <;> simp only [Reg.offset] <;> omega

theorem accessReg_ofNat {n : Nat} (hn : n < 2 ^ 16) : accessReg (BitVec.ofNat 16 n) 4 = regAt n := by
  rw [accessReg, if_pos rfl, BitVec.toNat_ofNat, Nat.mod_eq_of_lt hn]

/-- A 4-byte read (R103, R104): the register's value without side effect, or 0 with a bus fault. -/
theorem step_read {n : Nat} (hn : n < 2 ^ 16) (s : State) (rest : List HostEvent) :
    step { s with pending := .access (.read (BitVec.ofNat 16 n) 4) :: rest } =
      .next (match regAt n with
        | some r => { s with pending := rest, lastRead := some (readReg r s) }
        | none => { busFault s with pending := rest, lastRead := some 0 }) := by
  rw [step_cons rfl]
  simp only [serveEvent, serveRead, accessReg_ofNat hn]
  cases regAt n with
  | some r => simp only [takeEvent, readReg_queue]
  | none => rfl

/-- What `readsAs` says of an offset in the register space: it is mapped and the register there reads so,
or it is not and the bus fault of the read shows in nothing. -/
theorem readsAs_iff {n : Nat} (hn : n < 2 ^ 16) (v : Word) (s : State) :
    readsAs n v s ↔
      (∃ r, regAt n = some r ∧ readReg r s = v) ∨
      (regAt n = none ∧ v = 0 ∧ (busFault s).status = s.status ∧ (busFault s).errcode = s.errcode) := by
  unfold readsAs
  simp only [step_read hn]
  cases regAt n with
  | some r => simp
  | none =>
    constructor
    · intro h
      have heq := Host.Outcome.next.inj (h [])
      have hv := Option.some.inj (congrArg State.lastRead heq)
      have hst := congrArg State.status heq
      have herr := congrArg State.errcode heq
      exact .inr ⟨rfl, hv.symm, hst, herr⟩
    · rintro (⟨r, hr, _⟩ | ⟨_, rfl, hst, herr⟩)
      · cases hr
      · intro rest
        simp only [busFault] at hst herr ⊢
        rw [hst, herr]

/-- A read of a mapped offset returns what stands there, without side effect. -/
theorem readsAs_of_regAt {n : Nat} {r : Reg} (h : regAt n = some r) (s : State) :
    readsAs n (readReg r s) s := by
  have hn : n < 2 ^ 16 := (regAt_offset h ▸ r.offset_lt).trans (by decide)
  exact (readsAs_iff hn _ s).2 (.inl ⟨r, h, rfl⟩)

/-- Settles O6: each offset is mapped to its register, and what the register reads as is the value
named. -/
theorem mappedRegistersRead : Obligations.MappedRegistersRead := by
  unfold Obligations.MappedRegistersRead
  intro s
  have reads {n : Nat} {v : Word} (r : Reg) (h : regAt n = some r) (hv : readReg r s = v) :
      readsAs n v s := hv ▸ readsAs_of_regAt h s
  refine ⟨⟨?_, ?_, ?_, ?_, ?_, ?_, ?_, ?_, ?_, ?_⟩, ⟨?_, ?_, ?_, ?_, ?_⟩, ⟨?_, ?_, ?_, ?_, ?_⟩,
    ⟨?_, ?_⟩, ⟨?_, ?_, ?_, ?_, ?_, ?_, ?_, ?_⟩, fun k => ?_, fun i hi => ?_⟩
  · exact reads .id rfl rfl
  · exact reads .status rfl rfl
  · exact reads .errcode rfl rfl
  · exact reads .irqEn rfl rfl
  · exact reads .cmd rfl rfl
  · exact reads .din0 rfl rfl
  · exact reads .din1 rfl rfl
  · exact reads .dout0 rfl rfl
  · exact reads .dout1 rfl rfl
  · exact reads .evt rfl rfl
  · exact reads .histW rfl rfl
  · exact reads .peakThr rfl rfl
  · exact reads .peakSep rfl rfl
  · exact reads .cellNs rfl rfl
  · exact reads .crc16Initv rfl rfl
  · exact reads .crc16 rfl rfl
  · exact reads .crc32 rfl rfl
  · exact reads .crc32Out rfl (BitVec.xor_allOnes)
  · exact reads .crc32be rfl rfl
  · exact reads .amiCsum rfl rfl
  · exact reads .aplFr rfl rfl
  · exact reads .aproSt rfl (by simp only [readReg]; cases s.apro <;> rfl)
  · exact reads .fluxCnt rfl rfl
  · exact reads .histMin rfl rfl
  · exact reads .histNb rfl rfl
  · exact reads .histOor rfl rfl
  · exact reads .peakN rfl rfl
  · exact reads .encKind rfl (by simp only [readReg]; cases s.reading.kind <;> rfl)
  · exact reads .bitCellNs rfl rfl
  · exact reads .encRate rfl (by simp only [readReg]; cases s.reading.rate <;> rfl)
  · obtain ⟨hpos, hcnt, hlbl, hpad⟩ := regAt_peakTable k
    exact ⟨reads _ hpos rfl, reads _ hcnt rfl, reads _ hlbl rfl, reads _ hpad rfl⟩
  · exact reads _ (regAt_binCnt ⟨i, hi⟩) rfl

/-! ### Writes of the read-write registers (R105) -/

/-- Keeping the low `k` bits of a word. -/
theorem zext32_setWidth (k : Nat) (v : Word) :
    zext32 (v.setWidth k) = v &&& BitVec.ofNat 32 (2 ^ k - 1) := by
  apply BitVec.eq_of_getLsbD_eq
  intro i hi
  simp only [zext32, BitVec.getLsbD_and, BitVec.getLsbD_setWidth, BitVec.getLsbD_ofNat,
    Nat.testBit_two_pow_sub_one, hi, decide_true, Bool.true_and, Bool.and_comm]

/-- Each read-write register, and that it keeps the named bits of what is written to it. -/
theorem rwMasks_register {off : Nat} {mask : Word} (h : (off, mask) ∈ rwMasks) :
    ∃ r, regAt off = some r ∧ r.accessType = .rw ∧
      ∀ v s, readReg r (storeReg r v s) = v &&& mask := by
  simp only [rwMasks, List.mem_cons, Prod.mk.injEq, List.not_mem_nil, or_false] at h
  rcases h with ⟨rfl, rfl⟩ | ⟨rfl, rfl⟩ | ⟨rfl, rfl⟩ | ⟨rfl, rfl⟩ | ⟨rfl, rfl⟩ | ⟨rfl, rfl⟩ |
    ⟨rfl, rfl⟩ | ⟨rfl, rfl⟩
  · exact ⟨.irqEn, rfl, rfl, fun v _ => zext32_setWidth 7 v⟩
  · exact ⟨.din0, rfl, rfl, fun _ _ => BitVec.and_allOnes.symm⟩
  · exact ⟨.din1, rfl, rfl, fun _ _ => BitVec.and_allOnes.symm⟩
  · exact ⟨.histW, rfl, rfl, fun v _ => zext32_setWidth 16 v⟩
  · exact ⟨.peakThr, rfl, rfl, fun v _ => zext32_setWidth 8 v⟩
  · exact ⟨.peakSep, rfl, rfl, fun v _ => zext32_setWidth 16 v⟩
  · exact ⟨.cellNs, rfl, rfl, fun v _ => zext32_setWidth 16 v⟩
  · exact ⟨.crc16Initv, rfl, rfl, fun v _ => zext32_setWidth 16 v⟩

/-- A store changes what no other register reads as. -/
theorem readReg_storeReg_ne {r q : Reg} (hr : r.accessType = .rw) (hne : q ≠ r) (v : Word)
    (s : State) : readReg q (storeReg r v s) = readReg q s := by
  cases r <;> cases hr <;> cases q <;> first | rfl | exact absurd rfl hne

/-- What a store leaves that no register shows whole, and the report. -/
theorem storeReg_frame (r : Reg) (v : Word) (s : State) :
    (storeReg r v s).status = s.status ∧ (storeReg r v s).errcode = s.errcode ∧
    (storeReg r v s).mem = s.mem ∧ (storeReg r v s).amiacc = s.amiacc ∧
    (storeReg r v s).params = s.params ∧ (storeReg r v s).pending = s.pending ∧
    (storeReg r v s).lastRead = s.lastRead := by
  cases r <;> exact ⟨rfl, rfl, rfl, rfl, rfl, rfl, rfl⟩

theorem step_write_rw {n : Nat} {r : Reg} (h : regAt n = some r) (hr : r.accessType = .rw) (v : Word)
    (s : State) (rest : List HostEvent) :
    step { s with pending := .access (.write (BitVec.ofNat 16 n) 4 v) :: rest } =
      .next (storeReg r v { s with pending := rest, lastRead := none }) := by
  have hn : n < 2 ^ 16 := (regAt_offset h ▸ r.offset_lt).trans (by decide)
  rw [step_cons rfl]
  simp only [serveEvent, serveWrite, accessReg_ofNat hn, h, hr]
  rfl

/-- `readsAs` sees only the registers, STATUS and ERRCODE. -/
theorem readsAs_congr {n : Nat} (hn : n < 2 ^ 16) {v : Word} {s t : State}
    (hreg : ∀ r, regAt n = some r → readReg r t = readReg r s) (hst : t.status = s.status)
    (herr : t.errcode = s.errcode) (h : readsAs n v s) : readsAs n v t := by
  rw [readsAs_iff hn] at h ⊢
  rcases h with ⟨r, hr, rfl⟩ | ⟨hnone, hv, hbst, hberr⟩
  · exact .inl ⟨r, hr, hreg r hr⟩
  · refine .inr ⟨hnone, hv, ?_, ?_⟩
    · rw [hst]; simpa [busFault, hst] using hbst
    · rw [herr]; simpa [busFault] using hberr

/-- Settles O8: the register at the offset takes the bits its mask names, and no other register, mapped at
another offset, reads otherwise. -/
theorem rwRegistersKeepNamedBits : Obligations.RwRegistersKeepNamedBits := by
  unfold Obligations.RwRegistersKeepNamedBits
  intro s v mask off hmem
  obtain ⟨r, hr, hrw, hread⟩ := rwMasks_register hmem
  obtain ⟨hst, herr, hmem, hami, hpar, hpend, hlast⟩ :=
    storeReg_frame r v { s with pending := [], lastRead := none }
  refine ⟨_, step_write_rw hr hrw v s [], ?_, fun n x hn hne hx => ?_, hmem, hami, hpar, hpend, hlast⟩
  · exact hread v _ ▸ readsAs_of_regAt hr _
  · refine readsAs_congr hn (fun q hq => ?_) hst herr hx
    have hqr : q ≠ r := fun hqr => hne (by rw [← regAt_offset hq, ← regAt_offset hr, hqr])
    rw [readReg_storeReg_ne hrw hqr, readReg_queue]

/-! ### The interrupt output (R62) -/

/-- Settles O11: `irq` is a non-zero bitwise AND, which is a bit set in both. -/
theorem irqIsEnabledStatus : Obligations.IrqIsEnabledStatus := by
  unfold Obligations.IrqIsEnabledStatus
  refine ⟨fun s => ?_, rfl⟩
  have hirq : irq s = true ↔ ¬s.status &&& s.irqEn = 0#7 := bne_iff_ne
  simp only [hirq, BitVec.zero_iff_eq_false, not_forall, Bool.not_eq_false, BitVec.getLsbD_and,
    Bool.and_eq_true]
  exact ⟨fun ⟨k, hst, hen⟩ => ⟨k, BitVec.lt_of_getLsbD hst, hst, hen⟩, fun ⟨k, _, hbits⟩ => ⟨k, hbits⟩⟩

/-! ### The write of CMD (R35, R136) -/

/-- The code a word that is no command is rejected with, as its number (R440, R442). -/
theorem reject_rejectCode (e : DecodeError) (s : State) :
    ∃ c : Nat, (c = if e = .immTooWide then 2 else 1) ∧
      reject (rejectCode e) s =
        { s with
          evt := 0x80, status := s.status ||| (1 <<< (c - 1)), errcode := BitVec.ofNat 4 c } := by
  cases e
  · exact ⟨1, rfl, rfl⟩
  · exact ⟨1, rfl, rfl⟩
  · exact ⟨2, rfl, rfl⟩

/-- Settles O4: offset 0x010 is CMD, whose write runs or rejects the word. -/
theorem stepRunsDecodedCommand : Obligations.StepRunsDecodedCommand := by
  unfold Obligations.StepRunsDecodedCommand
  intro s w rest hp
  have hrun : step s = runCommand w (takeEvent rest s) := step_cons hp
  refine ⟨fun i hd => hrun.trans (runCommand_ok hd _), fun e hd => ?_⟩
  obtain ⟨c, hc, hreject⟩ := reject_rejectCode e (takeEvent rest s)
  exact ⟨c, hc, hrun.trans ((runCommand_error hd _).trans (congrArg _ hreject))⟩

/-! ### The views of internal state (R49 to R52, R55, R59) -/

theorem getLsbD_append_high {n m i : Nat} (h : m ≤ i) (x : BitVec n) (y : BitVec m) :
    (x ++ y).getLsbD i = x.getLsbD (i - m) := by
  simp [BitVec.getLsbD_append, h.not_gt]

theorem getLsbD_append_bit {n : Nat} (x : BitVec n) (b : Bool) : (x ++ BitVec.ofBool b).getLsbD 0 = b :=
  append_bit x b 0

theorem Framer.view_fields (f : Framer) :
    f.view.extractLsb' 0 16 = f.sr ∧ f.view.extractLsb' 16 4 = f.phase ∧
    f.view.extractLsb' 20 2 = f.a1cnt ∧ f.view.getLsbD 22 = f.locked ∧ f.view.getLsbD 23 = f.prev ∧
    f.view.extractLsb' 24 4 = f.zrun ∧ f.view.getLsbD 28 = f.err ∧ f.view.extractLsb' 29 3 = 0#3 := by
  simp (disch := decide) only [Framer.view, BitVec.extractLsb'_append_eq_of_le,
    BitVec.extractLsb'_append_eq_right, BitVec.extractLsb'_eq_self, getLsbD_append_high,
    getLsbD_append_bit, Nat.reduceSub, and_self]

theorem FmFramer.view_fields (f : FmFramer) :
    f.view.extractLsb' 0 16 = f.sr ∧ f.view.extractLsb' 16 4 = f.phase ∧
    f.view.extractLsb' 20 2 = 0#2 ∧ f.view.getLsbD 22 = f.locked ∧ f.view.extractLsb' 23 9 = 0#9 := by
  simp (disch := decide) only [FmFramer.view, BitVec.extractLsb'_append_eq_of_le,
    BitVec.extractLsb'_append_eq_right, BitVec.extractLsb'_eq_self, getLsbD_append_high,
    getLsbD_append_bit, Nat.reduceSub, and_self]

theorem Gcr5Framer.view_fields (g : Gcr5Framer) :
    g.view.extractLsb' 0 10 = g.acc ∧ g.view.extractLsb' 10 4 = g.cnt ∧
    g.view.extractLsb' 14 2 = g.mode.code ∧ g.view.extractLsb' 16 8 = g.ones ∧
    g.view.extractLsb' 24 8 = 0#8 := by
  simp (disch := decide) only [Gcr5Framer.view, BitVec.extractLsb'_append_eq_of_le,
    BitVec.extractLsb'_append_eq_right, BitVec.extractLsb'_eq_self, Nat.reduceSub, and_self]

theorem Encoders.view_fields (e : Encoders) :
    e.view.getLsbD 0 = e.mfmprev ∧ e.view.getLsbD 1 = e.m2prevd ∧ e.view.getLsbD 2 = e.m2prevc ∧
    e.view.getLsbD 3 = e.amiprev ∧ e.view.extractLsb' 4 28 = 0#28 := by
  simp (disch := decide) only [Encoders.view, BitVec.extractLsb'_append_eq_of_le,
    BitVec.extractLsb'_eq_self, getLsbD_append_high, getLsbD_append_bit, Nat.reduceSub, and_self]

theorem histFlagsView_fields (s : State) :
    (histFlagsView s).getLsbD 0 = s.histValid ∧ (histFlagsView s).getLsbD 1 = s.peaksValid ∧
    (histFlagsView s).getLsbD 2 = s.classValid ∧ (histFlagsView s).extractLsb' 3 29 = 0#29 := by
  simp (disch := decide) only [histFlagsView, BitVec.extractLsb'_append_eq_of_le,
    BitVec.extractLsb'_eq_self, getLsbD_append_high, getLsbD_append_bit, Nat.reduceSub, and_self]

/-- Settles O7: each view is what the read returns, and its fields stand where the concatenation puts
them. -/
theorem viewFieldsRead : Obligations.ViewFieldsRead := by
  unfold Obligations.ViewFieldsRead
  refine fun s => ⟨?_, ?_, ?_, ?_, ?_⟩
  · rintro x (rfl | rfl)
    · exact ⟨_, readsAs_of_regAt (n := 0x0A0) (r := .mfmFr) rfl s, s.mfm.view_fields⟩
    · exact ⟨_, readsAs_of_regAt (n := 0x0A4) (r := .m2fmFr) rfl s, s.m2.view_fields⟩
  · exact ⟨_, readsAs_of_regAt (r := .fmFr) rfl s, s.fm.view_fields⟩
  · obtain ⟨hacc, hcnt, hmode, hones, hzero⟩ := s.g5.view_fields
    refine ⟨_, readsAs_of_regAt (r := .gcr5Fr) rfl s, hacc, hcnt, hmode.trans ?_, hones, hzero⟩
    cases s.g5.mode <;> rfl
  · exact ⟨_, readsAs_of_regAt (r := .encSt) rfl s, s.enc.view_fields⟩
  · exact ⟨_, readsAs_of_regAt (r := .histFlags) rfl s, histFlagsView_fields s⟩

end Sys2Proof.Machine
end

section
/-! PROOFS. What commands leave unchanged (spec/10_state.md R37, R39, spec/20_memory.md R101), and the
independence of the units (R494, R64). -/

namespace Sys2Proof.Machine

open Sys2Proof.Config

/-! ### The frame of all commands -/

/-- CLASSIFY reaches no memory (R386). -/
theorem classifyPeaks_mem (s : State) : (classifyPeaks s).mem = s.mem := by
  rcases classifyPeaks_cases s with ⟨_, he⟩ | ⟨_, _, _, _, he⟩ <;> rw [he] <;> rfl

/-- What a command can do to the internal memories (R101): nothing, empty the bins, push a sample, or
fill the bins. -/
theorem exec_mem_cases {i : Instr} {s t : State} (h : exec i s = .next t) :
    t.mem = s.mem ∨
    ((i = .fluxClr ∨ ∃ m, m.getLsbD 7 = true ∧ i = .srst m) ∧ t.mem = binsClear s.mem) ∨
    (i = .fluxPush ∧ t.mem = fluxWrite s.mem s.fluxcnt.toNat (operand0 s)) ∨
    (i = .histBuild ∧ t.mem.flux = s.mem.flux) := by
  have memOf {r : State} (hv : analyserView t = analyserView r) : t.mem = r.mem :=
    congrArg (fun v => v.2.1) hv
  rcases exec_analyserView_cases h with
    hv | ⟨hi, hv⟩ | ⟨hi, _, hv⟩ | ⟨hi, _, _, hv⟩ | ⟨_, _, hv⟩ | ⟨_, _, hv⟩
  · exact .inl (memOf hv)
  · exact .inr (.inl ⟨hi, memOf hv⟩)
  · exact .inr (.inr (.inl ⟨hi, memOf hv⟩))
  · exact .inr (.inr (.inr ⟨hi, (congrArg Memory.flux (memOf hv)).trans rfl⟩))
  · exact .inl (memOf hv :)
  · exact .inl ((memOf hv).trans (classifyPeaks_mem s))

theorem exec_fluxRead {i : Instr} {s t : State} (h : exec i s = .next t) (j : Nat)
    (hj : i = .fluxPush → j ≠ s.fluxcnt.toNat) : fluxRead t.mem j = fluxRead s.mem j := by
  rcases exec_mem_cases h with hm | ⟨_, hm⟩ | ⟨hi, hm⟩ | ⟨_, hm⟩
  · rw [hm]
  · rw [hm, fluxRead_binsClear]
  · rw [hm, fluxRead_fluxWrite, if_neg (hj hi)]
  · rw [fluxRead, fluxRead, hm]

theorem exec_binRead {i : Instr} {s t : State} (h : exec i s = .next t) (hb : i ≠ .histBuild)
    (hc : i ≠ .fluxClr) (hm : ∀ m : BitVec 8, m.getLsbD 7 = true → i ≠ .srst m) (j : Nat) :
    binCntRead t.mem j = binCntRead s.mem j ∧ binSumRead t.mem j = binSumRead s.mem j := by
  rcases exec_mem_cases h with hv | ⟨hi | ⟨m, h7, hi⟩, _⟩ | ⟨_, hv⟩ | ⟨hi, _⟩
  · rw [hv]; exact ⟨rfl, rfl⟩
  · exact absurd hi hc
  · exact absurd hi (hm m h7)
  · rw [hv]; exact ⟨binCntRead_fluxWrite .., binSumRead_fluxWrite ..⟩
  · exact absurd hi hb

/-- Settles O53: no command writes `configView`, and the cases of `exec_mem_cases` are the commands that
reach a memory. -/
theorem commandFrame : Obligations.CommandFrame := by
  unfold Obligations.CommandFrame
  intro i s t h
  have hconf := exec_configView h
  simp only [configView, Prod.mk.injEq] at hconf
  exact ⟨hconf, exec_fluxRead h, fun j hb hc hm => exec_binRead h hb hc hm j⟩

/-! ### The independence of the units -/

/-- R494: a command other than SRST leaves the units it does not belong to as they were. -/
theorem exec_mix_frame {i : Instr} {a b s t : State} (hi : ∀ m, i ≠ .srst m)
    (h : exec i (mixUnits (unitOf i) a b s) = .next t) : t = mixUnits (unitOf i) t b t := by
  have hframe := exec_frame hi h
  have others (u : UnitName) (r : State) (e : BitVec 8) (st : BitVec 7) (er : BitVec 4) (d d' : Word)
      (hr : r = { mixUnits u t (mixUnits u a b s) (mixUnits u a b s) with
                  evt := e, status := st, errcode := er, dout0 := d, dout1 := d' }) :
      r = mixUnits u r b r := by
    subst hr
    cases u <;> rfl
  exact others _ t _ _ _ _ _ hframe

/-- R494, R64: what a command other than SRST does is the same from any state of the other units, and
from any report. -/
theorem exec_mix {i : Instr} {a b b' s t : State} {e : BitVec 8} {st : BitVec 7} {er : BitVec 4}
    (hi : ∀ m, i ≠ .srst m) (h : exec i (mixUnits (unitOf i) a b s) = .next t) :
    ∃ st' er', exec i (mixUnits (unitOf i) a b' { s with evt := e, status := st, errcode := er }) =
      .next (mixUnits (unitOf i) t b' { t with status := st', errcode := er' }) := by
  cases i
  case srst mask => exact absurd rfl (hi mask)
  case mfmEncSync kind => cases kind <;> exact Host.Outcome.next.inj h ▸ ⟨_, _, rfl⟩
  case aplDecCell b =>
    rcases exec_aplDecCell_cases h with ⟨hb, rfl⟩ | ⟨hb, rfl⟩
    · exact ⟨_, _, (if_pos hb).trans rfl⟩
    · exact ⟨_, _, (if_neg (Bool.eq_false_iff.1 hb)).trans rfl⟩
  case fluxPush =>
    rcases exec_fluxPush_cases h with ⟨hd, rfl⟩ | ⟨hd, rfl⟩
    · exact ⟨_, _, (if_pos hd).trans rfl⟩
    · exact ⟨_, _, (if_neg hd).trans rfl⟩
  case histBuild =>
    rcases exec_histBuild_cases h with ⟨hw, rfl⟩ | ⟨hw, hc, rfl⟩ | ⟨hw, hc, rfl⟩
    · exact ⟨_, _, (if_pos hw).trans rfl⟩
    · exact ⟨_, _, (if_neg hw).trans ((if_pos hc).trans rfl)⟩
    · exact ⟨_, _, (if_neg hw).trans ((if_neg hc).trans rfl)⟩
  case peakFind =>
    rcases exec_peakFind_cases h with ⟨hv, rfl⟩ | ⟨hv, rfl⟩
    · exact ⟨_, _, (if_neg (Bool.eq_false_iff.1 hv)).trans rfl⟩
    · exact ⟨_, _, (if_pos hv).trans rfl⟩
  case classify =>
    rcases exec_classify_cases h with ⟨hv, rfl⟩ | ⟨hv, rfl⟩
    · exact ⟨_, _, (if_neg (Bool.eq_false_iff.1 hv)).trans rfl⟩
    · refine ⟨st, er, (if_pos hv).trans (congrArg _ ?_)⟩
      rcases classifyPeaks_cases (mixUnits (unitOf .classify) a b s) with
        ⟨hc, he⟩ | ⟨hn, hp, kind, rfl, he⟩ <;> rw [he]
      · exact (if_pos hc).trans rfl
      · exact (if_neg (not_or.2 ⟨hn, hp⟩)).trans rfl
  case fluxCells =>
    rcases exec_fluxCells_cases h with ⟨hc, rfl⟩ | ⟨hc, rfl⟩
    · exact ⟨_, _, (if_pos hc).trans rfl⟩
    · exact ⟨_, _, (if_neg hc).trans rfl⟩
  all_goals exact Host.Outcome.next.inj h ▸ ⟨_, _, rfl⟩

/-- Settles O54: `exec_frame` gives what the command leaves, and by the cases of the commands each reads
only its own unit and the registers of no unit. -/
theorem unitsIndependent : Obligations.UnitsIndependent := by
  unfold Obligations.UnitsIndependent
  intro i a b b' s t e st er hi u h
  exact ⟨exec_mix_frame hi h, exec_mix hi h⟩

end Sys2Proof.Machine
end

section
/-! PROOFS. Bus faults (spec/20_memory.md R103, R104; R443): which accesses reach no register that takes
them, and what serving one of them leaves. -/

namespace Sys2Proof.Machine

/-! ### Which accesses fault -/

theorem offsetMapped_iff (n : Nat) :
    offsetMapped n = true ↔
      n % 4 = 0 ∧ (n ∈ namedOffsets ∨ (0x200 ≤ n ∧ n < 0x300) ∨ (0x1000 ≤ n ∧ n < 0x2000)) := by
  simp [offsetMapped, or_assoc]

/-- Every register stands at an offset R100 maps. -/
theorem Reg.offsetMapped_offset (r : Reg) : offsetMapped r.offset = true := by
  cases r
  case peakPos k | peakCnt k | peakLbl k | peakPad k =>
    rw [offsetMapped_iff, Reg.offset]
    omega
  case binCnt i =>
    rw [offsetMapped_iff, Reg.offset]
    omega
  all_goals rfl

/-- A register that takes a write stands at one of the writable offsets (R104, R105). -/
theorem Reg.offset_mem_writableOffsets {r : Reg} (h : r.accessType ≠ .ro) :
    r.offset ∈ writableOffsets := by
  cases r
  case status | irqEn | cmd | din0 | din1 | histW | peakThr | peakSep | cellNs | crc16Initv =>
    decide
  all_goals exact absurd rfl h

/-- An access that reaches a register is of 4 bytes and at the register's offset. -/
theorem accessReg_eq_some {off : BitVec 16} {size : Nat} {r : Reg} (h : accessReg off size = some r) :
    size = 4 ∧ r.offset = off.toNat := by
  unfold accessReg at h
  split_ifs at h with hsize
  exact ⟨hsize, regAt_offset h⟩

/-- R103: an access of another size, or at an offset that is not mapped, reaches no register. -/
theorem accessReg_eq_none {off : BitVec 16} {size : Nat}
    (h : ¬(size = 4 ∧ offsetMapped off.toNat = true)) : accessReg off size = none := by
  refine Option.eq_none_iff_forall_ne_some.2 fun r hr => h ?_
  obtain ⟨hsize, hoff⟩ := accessReg_eq_some hr
  exact ⟨hsize, hoff ▸ r.offsetMapped_offset⟩

/-- R104: an access of another size, or at an offset that is not writable, reaches a read-only register if
any. -/
theorem accessType_of_not_writable {off : BitVec 16} {size : Nat} {r : Reg}
    (h : ¬(size = 4 ∧ off.toNat ∈ writableOffsets)) (hr : accessReg off size = some r) :
    r.accessType = .ro := by
  obtain ⟨hsize, hoff⟩ := accessReg_eq_some hr
  by_contra hro
  exact h ⟨hsize, hoff ▸ Reg.offset_mem_writableOffsets hro⟩

/-! ### What a faulting access does (R443) -/

theorem serveRead_fault {off : BitVec 16} {size : Nat} (h : accessReg off size = none) (s : State) :
    serveRead off size s = { busFault s with lastRead := some 0 } := by
  simp only [serveRead, h]

/-- A write that reaches no register, or a read-only one, faults: it runs no command, clears no STATUS bit
and stores nothing. -/
theorem serveWrite_fault {off : BitVec 16} {size : Nat}
    (h : ∀ r, accessReg off size = some r → r.accessType = .ro) (v : Word) (s : State) :
    serveWrite off size v s = .next (busFault s) := by
  rcases serveWrite_cases off size v s with hfault | ⟨hcmd, _⟩ | ⟨hstatus, _⟩ | ⟨r, hr, hrw, _⟩
  · exact hfault
  · cases h _ hcmd
  · cases h _ hstatus
  · cases hrw.symm.trans (h r hr)

/-- Settles O5: a faulting access reaches no register (a read) or none that takes a write, and serving it
is `busFault` in the state with the access taken off the queue. -/
theorem busFaultChangesOnlyReport : Obligations.BusFaultChangesOnlyReport := by
  unfold Obligations.BusFaultChangesOnlyReport
  intro s rest off size v
  refine ⟨fun hread => ?_, fun hwrite => ?_⟩
  · rw [step_cons rfl, serveEvent, serveRead_fault (accessReg_eq_none hread)]
    rfl
  · rw [step_cons rfl, serveEvent, serveWrite_fault fun _ => accessType_of_not_writable hwrite]
    rfl

end Sys2Proof.Machine
end

section
/-! PROOFS. The encoding of commands (spec/30_encoding.md R130 to R137): the fields of a word, each row of
the opcode map against the rules' own lists, and decoding as the inverse of encoding. -/

namespace Sys2Proof.Machine

/-! ### The fields of a word (R131, R139) -/

theorem wordOfCommand_eq_append (c : Command) : wordOfCommand c = c.opc ++ c.sel ++ c.imm := by
  have h := BitVec.setWidth_append_append_eq_shiftLeft_setWidth_or (w''' := 32) (b := c.opc)
    (b' := c.sel) (b'' := c.imm)
  rw [BitVec.setWidth_eq] at h
  exact h.symm

theorem commandOfWord_wordOfCommand (c : Command) : commandOfWord (wordOfCommand c) = c := by
  simp (disch := decide) only [wordOfCommand_eq_append, commandOfWord,
    BitVec.extractLsb'_append_eq_of_le, BitVec.extractLsb'_append_eq_right,
    BitVec.extractLsb'_eq_self, Nat.reduceSub]

theorem wordOfCommand_commandOfWord (w : Word) : wordOfCommand (commandOfWord w) = w := by
  rw [wordOfCommand_eq_append]
  have hhigh : w.extractLsb' 24 8 ++ w.extractLsb' 16 8 = w.extractLsb' 16 16 :=
    BitVec.extractLsb'_append_extractLsb'_eq_extractLsb' rfl
  have hall : w.extractLsb' 16 16 ++ w.extractLsb' 0 16 = w.extractLsb' 0 32 :=
    BitVec.extractLsb'_append_extractLsb'_eq_extractLsb' rfl
  exact (congrArg (· ++ w.extractLsb' 0 16) hhigh).trans (hall.trans BitVec.extractLsb'_eq_self)

/-! ### The checks of R136 in order -/

section
variable {opc sel : BitVec 8} {imm : BitVec 16} {r : OpRow}

theorem decodeCommand_illegalOpc (h : opRow opc = none) :
    decodeCommand ⟨opc, sel, imm⟩ = .error .illegalOpc := by
  simp [decodeCommand, h]

theorem decodeCommand_illegalSel (h : opRow opc = some r) (hsel : r.sels ≤ sel.toNat) :
    decodeCommand ⟨opc, sel, imm⟩ = .error .illegalSel := by
  simp [decodeCommand, h, hsel]

/-- A number passes the check of IMM[15:k] exactly when it has `k` bits. -/
theorem ushiftRight_eq_zero_iff {w : Nat} (x : BitVec w) (k : Nat) : x >>> k = 0 ↔ x.toNat < 2 ^ k := by
  simp [← BitVec.toNat_inj, Nat.shiftRight_eq_div_pow]

theorem decodeCommand_immTooWide (h : opRow opc = some r) (hsel : sel.toNat < r.sels)
    (himm : 2 ^ r.k ≤ imm.toNat) : decodeCommand ⟨opc, sel, imm⟩ = .error .immTooWide := by
  have hwide : imm >>> r.k ≠ 0 := fun hz => himm.not_gt ((ushiftRight_eq_zero_iff imm r.k).1 hz)
  simp only [decodeCommand, h, if_neg hsel.not_ge, if_pos hwide]

theorem decodeCommand_ok (h : opRow opc = some r) (hsel : sel.toNat < r.sels)
    (himm : imm.toNat < 2 ^ r.k) : decodeCommand ⟨opc, sel, imm⟩ = .ok (r.build sel imm) := by
  have hfits := (ushiftRight_eq_zero_iff imm r.k).2 himm
  simp only [decodeCommand, h, if_neg hsel.not_ge, if_neg (not_not.2 hfits)]

/-! ### Decoding inverts encoding -/

theorem decodeCommand_plainRow {i : Instr} (h : opRow opc = some (plainRow i)) :
    decodeCommand ⟨opc, 0, 0⟩ = .ok i :=
  decodeCommand_ok h Nat.one_pos Nat.one_pos

theorem decodeCommand_bitRow {mk : Bool → Instr} (h : opRow opc = some (bitRow mk)) (b : Bool) :
    decodeCommand (bitCommand opc b) = .ok (mk b) := by
  cases b
  · exact decodeCommand_ok h Nat.one_pos Nat.two_pos
  · exact decodeCommand_ok h Nat.one_pos Nat.one_lt_two

theorem decodeCommand_immRow {k : Nat} {mk : BitVec k → Instr} (h : opRow opc = some (immRow k mk))
    (hk : k ≤ 16) (v : BitVec k) : decodeCommand ⟨opc, 0, v.setWidth 16⟩ = .ok (mk v) := by
  have hv : (v.setWidth 16).toNat < 2 ^ k := (BitVec.toNat_setWidth_of_le hk).trans_lt v.isLt
  have hback : (v.setWidth 16).setWidth k = v := by simp [hk]
  have hdec := decodeCommand_ok (sel := 0) h (Nat.one_pos : 0 < 1) hv
  exact hdec.trans (congrArg (Except.ok ∘ mk) hback)

end

theorem decodeCommand_encodeCommand (i : Instr) : decodeCommand (encodeCommand i) = .ok i := by
  cases i
  case srst mask => exact decodeCommand_ok (opc := 0x01) rfl mask.isLt Nat.one_pos
  case mfmEncSync kind => cases kind <;> rfl
  case fmEncMark kind => cases kind <;> rfl
  case amiEncHalf half => cases half <;> rfl
  case mfmDecCell b | mfmEncPrev b | fmDecCell b | m2fmDecCell b | gcr5DecCell b | aplDecCell b |
      amiEncPrev b =>
    exact decodeCommand_bitRow rfl b
  case mfmEncByte v | fmEncByte v | m2fmEncByte v | m2fmEncPrev v | gcr5EncNib v | gcr5DecCode v |
      gcr5EncByte v | gcr5DecWord v | a62Enc v | a62Dec v | a53Enc v | a53Dec v | aproStep v |
      crc16Load v | crc16Byte v | crc32Byte v | crc32beByte v =>
    exact decodeCommand_immRow rfl (by decide) v
  all_goals exact decodeCommand_plainRow rfl

/-- Settles O1: the fields survive the word, and each command's fields pass the checks of its row, which
builds the command back. -/
theorem decodeEncodeRoundTrip : Obligations.DecodeEncodeRoundTrip := by
  unfold Obligations.DecodeEncodeRoundTrip
  intro i
  rw [decode, encode, commandOfWord_wordOfCommand, decodeCommand_encodeCommand]

theorem decode_of_encode_eq {i : Instr} {w : Word} (h : encode i = w) : decode w = .ok i :=
  h ▸ decodeEncodeRoundTrip i

/-- Settles O3: each written word is the encoding of its command. -/
theorem writtenWordsDecode : Obligations.WrittenWordsDecode := by
  unfold Obligations.WrittenWordsDecode
  refine ⟨?_, ?_, ?_, ?_, ?_, ?_, ?_, ?_, ?_, ?_, ?_⟩ <;> exact decode_of_encode_eq rfl

/-! ### The opcode map against the rules' own lists -/

/-- R137: the opcodes without a row are the illegal ones. -/
theorem opRow_isNone : ∀ opc : BitVec 8, (opRow opc).isNone = Command.opcIllegal opc.toNat := by decide

/-- What R132, R134 and R135 say of an opcode, of its row in the decoder's table: the row takes the same
selectors and the same immediate width, and what it builds from them encodes back to the fields. -/
structure RowMeetsRules (opc : BitVec 8) (r : OpRow) : Prop where
  sels : ∀ sel : BitVec 8, Command.selLegal opc.toNat sel.toNat = true ↔ sel.toNat < r.sels
  width : Command.immWidth opc.toNat = r.k
  encodes : ∀ sel imm, sel.toNat < r.sels → imm.toNat < 2 ^ r.k →
    encodeCommand (r.build sel imm) = ⟨opc, sel, imm⟩

namespace RowMeetsRules

theorem eq_zero_of_toNat_lt_one {w : Nat} {x : BitVec w} (h : x.toNat < 1) : x = 0 :=
  BitVec.eq_of_toNat_eq (by simpa using h)

section
variable {opc : BitVec 8}

/-- A row that takes selector 0 alone. -/
theorem of_selZero {k : Nat} {build : BitVec 8 → BitVec 16 → Instr}
    (hsel : ∀ sel, Command.selLegal opc.toNat sel = (sel == 0)) (hwidth : Command.immWidth opc.toNat = k)
    (henc : ∀ imm, imm.toNat < 2 ^ k → encodeCommand (build 0 imm) = ⟨opc, 0, imm⟩) :
    RowMeetsRules opc ⟨1, k, build⟩ where
  sels sel := by rw [hsel, beq_iff_eq]; exact Nat.lt_one_iff.symm
  width := hwidth
  encodes sel imm hs himm := by
    obtain rfl := eq_zero_of_toNat_lt_one hs
    exact henc imm himm

theorem plain {i : Instr} (hsel : ∀ sel, Command.selLegal opc.toNat sel = (sel == 0) := by exact fun _ => rfl)
    (hwidth : Command.immWidth opc.toNat = 0 := by rfl)
    (henc : encodeCommand i = ⟨opc, 0, 0⟩ := by rfl) : RowMeetsRules opc (plainRow i) :=
  of_selZero hsel hwidth fun imm himm => by
    obtain rfl := eq_zero_of_toNat_lt_one himm
    exact henc

theorem imm {k : Nat} {mk : BitVec k → Instr}
    (hsel : ∀ sel, Command.selLegal opc.toNat sel = (sel == 0) := by exact fun _ => rfl)
    (hwidth : Command.immWidth opc.toNat = k := by rfl)
    (henc : ∀ v, encodeCommand (mk v) = ⟨opc, 0, v.setWidth 16⟩ := by exact fun _ => rfl) :
    RowMeetsRules opc (immRow k mk) :=
  of_selZero hsel hwidth fun imm himm => by
    have hback : (imm.setWidth k).setWidth 16 = imm := by
      apply BitVec.eq_of_toNat_eq
      simp [Nat.mod_eq_of_lt himm, Nat.mod_eq_of_lt imm.isLt]
    rw [henc, hback]

theorem bit {mk : Bool → Instr}
    (hsel : ∀ sel, Command.selLegal opc.toNat sel = (sel == 0) := by exact fun _ => rfl)
    (hwidth : Command.immWidth opc.toNat = 1 := by rfl)
    (henc : ∀ b, encodeCommand (mk b) = bitCommand opc b := by exact fun _ => rfl) :
    RowMeetsRules opc (bitRow mk) :=
  of_selZero hsel hwidth fun imm himm => by
    rw [henc]
    obtain rfl | rfl : imm = 0 ∨ imm = 1 := by bv_omega
    all_goals rfl

/-- SRST takes every selector (R134). -/
theorem srst : RowMeetsRules 0x01 ⟨256, 0, fun sel _ => .srst sel⟩ where
  sels sel := iff_of_true rfl sel.isLt
  width := rfl
  encodes sel imm _ himm := by
    obtain rfl := eq_zero_of_toNat_lt_one himm
    rfl

/-- A row whose `n` selectors stand for the values of a type. -/
theorem kinds {α : Type} {n : Nat} {mk : α → Instr} {ofSel : BitVec 8 → α} {toSel : α → BitVec 8}
    (hsel : ∀ sel : BitVec 8, Command.selLegal opc.toNat sel.toNat = true ↔ sel.toNat < n)
    (hwidth : Command.immWidth opc.toNat = 0) (henc : ∀ a, encodeCommand (mk a) = ⟨opc, toSel a, 0⟩)
    (hback : ∀ sel : BitVec 8, sel.toNat < n → toSel (ofSel sel) = sel) :
    RowMeetsRules opc ⟨n, 0, fun sel _ => mk (ofSel sel)⟩ where
  sels := hsel
  width := hwidth
  encodes sel imm hs himm := by
    obtain rfl := eq_zero_of_toNat_lt_one himm
    rw [henc, hback sel hs]

theorem mfmEncSync : RowMeetsRules 0x12 ⟨2, 0, fun sel _ => .mfmEncSync (syncOfSel sel)⟩ :=
  kinds (by decide) rfl (fun _ => rfl) (by decide)

theorem fmEncMark : RowMeetsRules 0x16 ⟨4, 0, fun sel _ => .fmEncMark (markOfSel sel)⟩ :=
  kinds (by decide) rfl (fun _ => rfl) (by decide)

theorem amiEncHalf : RowMeetsRules 0x31 ⟨2, 0, fun sel _ => .amiEncHalf (halfOfSel sel)⟩ :=
  kinds (by decide) rfl (fun _ => rfl) (by decide)

end

end RowMeetsRules

/-- Every row of the decoder's table, in the order of the opcode map. -/
theorem opRow_meetsRules {opc : BitVec 8} {r : OpRow} (h : opRow opc = some r) : RowMeetsRules opc r := by
  have hopc : opc = BitVec.ofNat 8 opc.toNat := by simp
  rw [hopc]
  unfold opRow at h
  generalize opc.toNat = n at h
  split at h <;> cases h
  exacts [.plain, .srst,
    .bit, .imm, .mfmEncSync, .bit, .bit, .imm, .fmEncMark, .bit, .imm, .imm,
    .imm, .imm, .imm, .imm, .bit,
    .imm, .imm, .imm, .imm, .bit, .imm,
    .plain, .amiEncHalf, .plain, .bit, .plain, .plain,
    .plain, .imm, .imm, .plain, .plain, .imm, .plain, .plain, .imm,
    .plain, .plain, .plain, .plain, .plain, .plain]

theorem exists_opRow_of_legal {opc : BitVec 8} (h : Command.opcIllegal opc.toNat = false) :
    ∃ r, opRow opc = some r ∧ RowMeetsRules opc r := by
  cases hrow : opRow opc with
  | none => cases h.symm.trans ((opRow_isNone opc).symm.trans (congrArg Option.isNone hrow))
  | some r => exact ⟨r, rfl, opRow_meetsRules hrow⟩

/-! ### Every word runs a command or is rejected (R136, R442) -/

section
variable {c : Command}

theorem decodeCommand_of_opcIllegal (h : Command.opcIllegal c.opc.toNat = true) :
    decodeCommand c = .error .illegalOpc :=
  decodeCommand_illegalOpc (Option.isNone_iff_eq_none.1 ((opRow_isNone c.opc).trans h))

theorem decodeCommand_of_selIllegal (h : Command.opcIllegal c.opc.toNat = false)
    (hs : Command.selLegal c.opc.toNat c.sel.toNat = false) : decodeCommand c = .error .illegalSel := by
  obtain ⟨r, hr, hrow⟩ := exists_opRow_of_legal h
  exact decodeCommand_illegalSel hr (not_lt.1 fun hlt => by simp [(hrow.sels c.sel).2 hlt] at hs)

theorem decodeCommand_of_immTooWide (h : Command.opcIllegal c.opc.toNat = false)
    (hs : Command.selLegal c.opc.toNat c.sel.toNat = true)
    (hi : 2 ^ Command.immWidth c.opc.toNat ≤ c.imm.toNat) : decodeCommand c = .error .immTooWide := by
  obtain ⟨r, hr, hrow⟩ := exists_opRow_of_legal h
  exact decodeCommand_immTooWide hr ((hrow.sels c.sel).1 hs) (hrow.width ▸ hi)

/-- A well-formed command is the encoding of what its row builds. -/
theorem exists_encodeCommand_of_wellFormed (h : c.wellFormed = true) : ∃ i, encodeCommand i = c := by
  simp only [Command.wellFormed, Bool.and_eq_true, Bool.not_eq_true', decide_eq_true_eq] at h
  obtain ⟨⟨hopc, hs⟩, hi⟩ := h
  obtain ⟨r, _, hrow⟩ := exists_opRow_of_legal hopc
  exact ⟨_, hrow.encodes c.sel c.imm ((hrow.sels c.sel).1 hs) (hrow.width ▸ hi)⟩

end

/-- Settles O2: the first check a word fails is the error it decodes to, and a word that passes all three
is the encoding of what its row builds. -/
theorem commandWordsRunOrAreRejected : Obligations.CommandWordsRunOrAreRejected := by
  unfold Obligations.CommandWordsRunOrAreRejected
  intro w s c illegal tooWide
  refine ⟨fun hopc => ?_, fun hopc hs => ?_, fun hopc hs hi => ?_, fun hc => ?_⟩
  · exact runCommand_error (decodeCommand_of_opcIllegal hopc) s
  · exact runCommand_error (decodeCommand_of_selIllegal hopc hs) s
  · exact runCommand_error (decodeCommand_of_immTooWide hopc hs hi) s
  · obtain ⟨i, hi⟩ := exists_encodeCommand_of_wellFormed hc
    have henc : encode i = w := (congrArg wordOfCommand hi).trans (wordOfCommand_commandOfWord w)
    have hdec := decode_of_encode_eq henc
    exact ⟨i, henc, hdec, runCommand_ok hdec s⟩

end Sys2Proof.Machine
end

section
/-! PROOFS. The host's assembler (spec/30_encoding.md R139, R140): the accesses of a command line run the
command whatever is queued behind them, and the commands each pseudo-instruction stands for. -/

namespace Sys2Proof.Machine

/-! ### The queue behind a command (R110) -/

/-- The same state with other events pending. -/
def withPending (q : List HostEvent) (s : State) : State := { s with pending := q }

theorem srstLine_withPending {mask : BitVec 8} {bit : Nat} {f : State → State} (q : List HostEvent)
    (s : State) (hf : f (withPending q s) = withPending q (f s)) :
    srstLine mask bit f (withPending q s) = withPending q (srstLine mask bit f s) := by
  unfold srstLine
  split
  · exact hf
  · rfl

theorem softReset_withPending (mask : BitVec 8) (q : List HostEvent) (s : State) :
    softReset mask (withPending q s) = withPending q (softReset mask s) := by
  unfold softReset
  iterate 8 rw [srstLine_withPending]
  all_goals rfl

/-- What a command does does not depend on what the host does after it. -/
theorem exec_withPending {i : Instr} {s t : State} (h : exec i s = .next t) (q : List HostEvent) :
    exec i (withPending q s) = .next (withPending q t) := by
  cases i
  case srst mask =>
    obtain rfl := Host.Outcome.next.inj h
    exact congrArg _ (softReset_withPending mask q (clearEvt s))
  case mfmEncSync kind => cases kind <;> exact Host.Outcome.next.inj h ▸ rfl
  case aplDecCell b =>
    rcases exec_aplDecCell_cases h with ⟨hb, rfl⟩ | ⟨hb, rfl⟩
    · exact (if_pos hb).trans rfl
    · exact (if_neg (Bool.eq_false_iff.1 hb)).trans rfl
  case fluxPush =>
    rcases exec_fluxPush_cases h with ⟨hd, rfl⟩ | ⟨hd, rfl⟩
    · exact (if_pos hd).trans rfl
    · exact (if_neg hd).trans rfl
  case histBuild =>
    rcases exec_histBuild_cases h with ⟨hw, rfl⟩ | ⟨hw, hc, rfl⟩ | ⟨hw, hc, rfl⟩
    · exact (if_pos hw).trans rfl
    · exact (if_neg hw).trans ((if_pos hc).trans rfl)
    · exact (if_neg hw).trans ((if_neg hc).trans rfl)
  case peakFind =>
    rcases exec_peakFind_cases h with ⟨hv, rfl⟩ | ⟨hv, rfl⟩
    · exact (if_neg (Bool.eq_false_iff.1 hv)).trans rfl
    · exact (if_pos hv).trans rfl
  case classify =>
    rcases exec_classify_cases h with ⟨hv, rfl⟩ | ⟨hv, rfl⟩
    · exact (if_neg (Bool.eq_false_iff.1 hv)).trans rfl
    · refine (if_pos hv).trans (congrArg _ ?_)
      rcases classifyPeaks_cases s with ⟨hc, he⟩ | ⟨hn, hp, kind, rfl, he⟩ <;> rw [he]
      · exact (if_pos hc).trans rfl
      · exact (if_neg (not_or.2 ⟨hn, hp⟩)).trans rfl
  case fluxCells =>
    rcases exec_fluxCells_cases h with ⟨hc, rfl⟩ | ⟨hc, rfl⟩
    · exact (if_pos hc).trans rfl
    · exact (if_neg hc).trans rfl
  all_goals exact Host.Outcome.next.inj h ▸ rfl

/-! ### Lines of a host program (R139, R140) -/

/-- A step that serves the oldest event leaves the others to be served. -/
theorem afterEvents_cons {e : HostEvent} {es : List HostEvent} {s t : State}
    (h : step { s with pending := e :: es } = .next { t with pending := es }) :
    afterEvents (e :: es) s = afterEvents es t := by
  simp only [afterEvents, List.length_cons, stepMany, h, nextOf_next, Option.bind_some]

/-- A command line's access to CMD runs the command, with the lines after it pending. -/
theorem step_commandEvent (i : Instr) (s : State) (rest : List HostEvent) :
    step { s with pending := commandEvent i :: rest } =
      exec i { s with pending := rest, lastRead := none } := by
  rw [step_cons rfl]
  exact runCommand_ok (decodeEncodeRoundTrip i) _

/-- The accesses of command lines run their commands one after the other. -/
theorem afterEvents_commands (is : List Instr) {s : State} (hlast : s.lastRead = none) :
    afterEvents (is.map commandEvent) s = execAll is { s with pending := [] } := by
  induction is generalizing s with
  | nil => rfl
  | cons i is ih =>
    obtain ⟨t, ht⟩ := exec_next i { s with pending := [] }
    have hconf := exec_configView ht
    simp only [configView, Prod.mk.injEq] at hconf
    obtain ⟨-, -, -, -, -, -, -, -, -, htpend, htlast⟩ := hconf
    have hstep : step { s with pending := commandEvent i :: is.map commandEvent } =
        .next { t with pending := is.map commandEvent } := by
      rw [step_commandEvent, ← hlast]
      exact exec_withPending ht _
    calc afterEvents ((i :: is).map commandEvent) s
        = afterEvents (is.map commandEvent) t := afterEvents_cons hstep
      _ = execAll is { t with pending := [] } := ih (htlast.trans hlast)
      _ = execAll is t := by rw [← htpend]
      _ = execAll (i :: is) { s with pending := [] } := (execAll_cons ht is).symm

/-- FLUX.PUSHV writes DIN0, then runs FLUX.PUSH (R140). -/
theorem afterEvents_fluxPushv (v : Word) {s : State} (hlast : s.lastRead = none) :
    afterEvents (lineEvents (.fluxPushv v)) s =
      execAll [.fluxPush] { s with pending := [], din0 := v } := by
  have hwrite : step { s with pending := lineEvents (.fluxPushv v) } =
      .next { s with pending := [commandEvent .fluxPush], lastRead := none, din0 := v } :=
    step_write_rw (n := 0x014) (r := .din0) rfl rfl v s [commandEvent .fluxPush]
  rw [← hlast] at hwrite
  calc afterEvents (lineEvents (.fluxPushv v)) s
      = afterEvents ([.fluxPush].map commandEvent) { s with din0 := v } := afterEvents_cons hwrite
    _ = execAll [.fluxPush] { s with pending := [], din0 := v } := afterEvents_commands _ hlast

/-! ### The commands of a pseudo-instruction (R140) -/

section
variable (mk : Bool → Instr)

theorem map_cellsOf_length {w : Nat} (v : BitVec w) : ((cellsOf v).map mk).length = w := by simp

theorem map_cellsOf_getElem? {w k : Nat} (v : BitVec w) (hk : k < w) :
    ((cellsOf v).map mk)[k]? = some (mk (v.getLsbD (w - 1 - k))) := by
  simp [cellsOf, hk]

theorem map_bitsDown_length (n v : Nat) : ((bitsDown n v).map mk).length = n := by simp [bitsDown]

theorem map_bitsDown_getElem? {n k : Nat} (v : Nat) (hk : k < n) :
    ((bitsDown n v).map mk)[k]? = some (mk (v.testBit (n - 1 - k))) := by
  simp [bitsDown, hk]

end

/-- Settles O55: every line but WR and RD is the accesses of its commands, FLUX.PUSHV after one to DIN0,
and the commands of a pseudo-instruction are its cells, bits or bytes in order. -/
theorem pseudoInstructionsRunTheirCommands : Obligations.PseudoInstructionsRunTheirCommands := by
  unfold Obligations.PseudoInstructionsRunTheirCommands
  refine ⟨fun l s hlast hwr hrd => ?_, fun w => ⟨⟨?_, ?_, ?_⟩, fun k hk => ⟨?_, ?_, ?_⟩⟩,
    fun n v => ⟨⟨?_, ?_⟩, fun k hk => ⟨?_, ?_⟩⟩, fun bytes k => ⟨?_, ?_, ?_⟩, fun _ => rfl, rfl, rfl,
    fun _ => rfl, fun _ _ => rfl, fun _ => rfl⟩
  · cases l
    case wr r v => exact absurd rfl (hwr r v)
    case rd r => exact absurd rfl (hrd r)
    case fluxPushv v => exact afterEvents_fluxPushv v hlast
    all_goals exact afterEvents_commands _ hlast
  · exact map_cellsOf_length _ w
  · exact map_cellsOf_length _ w
  · exact map_cellsOf_length _ w
  · exact map_cellsOf_getElem? _ w hk
  · exact map_cellsOf_getElem? _ w hk
  · exact map_cellsOf_getElem? _ w hk
  · exact map_bitsDown_length _ n v
  · exact map_bitsDown_length _ n v
  · exact map_bitsDown_getElem? _ v hk
  · exact map_bitsDown_getElem? _ v hk
  · exact List.getElem?_map
  · exact List.getElem?_map
  · exact List.getElem?_map

end Sys2Proof.Machine
end

section
/-! PROOFS. The cells of the clock-data interleaved encodings (spec/40_mfm_fm_m2fm.md R200, R205, R222,
R230): MFM, FM and M2FM differ in the rule of the clock bit alone, so their streams share one form,
`clockedCells`, and one test of what a window of such a stream can hold. -/

namespace Sys2Proof.Machine

/-! ### Shift registers and cell words -/

theorem cellsOf_byte (d : Byte) :
    cellsOf d = [d.getLsbD 7, d.getLsbD 6, d.getLsbD 5, d.getLsbD 4, d.getLsbD 3, d.getLsbD 2,
      d.getLsbD 1, d.getLsbD 0] := rfl

theorem cellsOf_half (w : Half) :
    cellsOf w = [w.getLsbD 15, w.getLsbD 14, w.getLsbD 13, w.getLsbD 12, w.getLsbD 11, w.getLsbD 10,
      w.getLsbD 9, w.getLsbD 8, w.getLsbD 7, w.getLsbD 6, w.getLsbD 5, w.getLsbD 4, w.getLsbD 3,
      w.getLsbD 2, w.getLsbD 1, w.getLsbD 0] := rfl

/-- A shift register lets its oldest cell go and takes the new one at the end. -/
theorem cellsOf_pushCell (sr : Half) (b : Bool) : cellsOf (pushCell sr b) = (cellsOf sr).tail ++ [b] := by
  simp (disch := omega) only [cellsOf_half, pushCell_getLsbD, Nat.reduceSub, OfNat.ofNat_ne_zero,
    one_ne_zero, reduceIte, List.tail_cons, List.cons_append, List.nil_append]

theorem cellsOf_foldl_pushCell (sr : Half) (cells : List Bool) :
    cellsOf (cells.foldl pushCell sr) = (cellsOf sr ++ cells).drop cells.length := by
  induction cells generalizing sr with
  | nil => simp
  | cons b cells ih =>
    rw [List.foldl_cons, ih, cellsOf_pushCell]
    simp [cellsOf_half]

theorem cellsOfWords_cons {w : Nat} (v : BitVec w) (ws : List (BitVec w)) :
    cellsOfWords (v :: ws) = cellsOf v ++ cellsOfWords ws := rfl

theorem cellsOf_infix_cellsOfWords {w : Nat} {v : BitVec w} {ws : List (BitVec w)} (h : v ∈ ws) :
    cellsOf v <:+: cellsOfWords ws := List.infix_of_mem_flatten (List.mem_map_of_mem h)

/-! ### Clocked cells -/

/-- The clock bit between the data bits `pd` and `d`, with `pc` the clock bit before it. -/
abbrev ClockRule := Bool → Bool → Bool → Bool

/-- R205. -/
def mfmClock : ClockRule := fun pd _ d => !pd && !d

/-- R222. -/
def fmClock : ClockRule := fun _ _ _ => true

/-- R230. -/
def m2fmClock : ClockRule := fun pd pc d => !pd && !d && !pc

/-- The cells of data bits sent after the data bit `pd` and the clock bit `pc`. -/
def clockedCells (rule : ClockRule) : Bool → Bool → List Bool → List Bool
  | _, _, [] => []
  | pd, pc, d :: ds => rule pd pc d :: d :: clockedCells rule d (rule pd pc d) ds

theorem clockedCells_length (rule : ClockRule) (pd pc : Bool) (ds : List Bool) :
    (clockedCells rule pd pc ds).length = 2 * ds.length := by
  induction ds generalizing pd pc with
  | nil => rfl
  | cons d ds ih => simp [clockedCells, ih]; omega

/-- The last clock bit sent. -/
def lastClock (rule : ClockRule) : Bool → Bool → List Bool → Bool
  | _, pc, [] => pc
  | pd, pc, d :: ds => lastClock rule d (rule pd pc d) ds

theorem clockedCells_append (rule : ClockRule) (pd pc : Bool) (ds es : List Bool) :
    clockedCells rule pd pc (ds ++ es) =
      clockedCells rule pd pc ds ++
        clockedCells rule (ds.getLastD pd) (lastClock rule pd pc ds) es := by
  induction ds generalizing pd pc with
  | nil => rfl
  | cons d ds ih => rw [List.getLastD_cons, List.cons_append, clockedCells, ih]; rfl

/-! ### What a window of clocked cells can hold -/

/-- `X` can be sent from a clock cell on, after the data bit `pd` and the clock bit `pc`. -/
def clockFits (rule : ClockRule) : Bool → Bool → List Bool → Bool
  | _, _, [] => true
  | pd, pc, [c] => c == rule pd pc false || c == rule pd pc true
  | pd, pc, c :: d :: X => c == rule pd pc d && clockFits rule d c X

theorem clockFits_of_prefix {rule : ClockRule} {ds : List Bool} {pd pc : Bool} {X : List Bool}
    (h : X <+: clockedCells rule pd pc ds) : clockFits rule pd pc X = true := by
  induction ds generalizing pd pc X with
  | nil => rw [List.prefix_nil.1 h]; rfl
  | cons d ds ih =>
    match X with
    | [] => rfl
    | [c] =>
      obtain ⟨rfl, _⟩ := List.cons_prefix_cons.1 h
      cases d <;> simp [clockFits]
    | c :: e :: X =>
      obtain ⟨rfl, hdata⟩ := List.cons_prefix_cons.1 h
      obtain ⟨rfl, hrest⟩ := List.cons_prefix_cons.1 hdata
      simp [clockFits, ih hrest]

/-- `X` can stand in a stream of clocked cells: it begins with a clock cell, or with the data cell after
some clock cell `c`. -/
abbrev WindowFits (rule : ClockRule) (X : List Bool) : Prop :=
  ∃ pd pc, clockFits rule pd pc X = true ∨ ∃ c, clockFits rule pd pc (c :: X) = true

theorem windowFits_of_infix {rule : ClockRule} {ds : List Bool} {pd pc : Bool} {X : List Bool}
    (h : X <:+: clockedCells rule pd pc ds) : WindowFits rule X := by
  induction ds generalizing pd pc with
  | nil => exact ⟨pd, pc, .inl (by rw [List.infix_nil.1 h]; rfl)⟩
  | cons d ds ih =>
    rcases List.infix_cons_iff.1 h with hclock | h
    · exact ⟨pd, pc, .inl (clockFits_of_prefix (ds := d :: ds) hclock)⟩
    rcases List.infix_cons_iff.1 h with hdata | h
    · exact ⟨pd, pc, .inr ⟨rule pd pc d,
        clockFits_of_prefix (ds := d :: ds) (List.cons_prefix_cons.2 ⟨rfl, hdata⟩)⟩⟩
    · exact ih h

/-! ### Windows across a border -/

/-- A window of `T ++ l` lies in `T`, in `l`, or across the border. -/
theorem infix_append_cases {X T l : List Bool} (h : X <:+: T ++ l) :
    X <:+: T ∨ X <:+: l ∨ ∃ k, k ≤ X.length ∧ X.take k <:+ T ∧ X.drop k <+: l := by
  rcases List.infix_append_iff.1 h with hT | hl | ⟨X₁, X₂, rfl, h₁, h₂⟩
  · exact .inl hT
  · exact .inr (.inl hl)
  · exact .inr (.inr ⟨X₁.length, by simp, by simpa using h₁, by simpa using h₂⟩)

/-! ### The word of one byte -/

/-- The data and clock bits of a word that is the clocked cells of a byte. -/
theorem dat_clk_of_clockedCells {rule : ClockRule} {pd pc : Bool} {d : Byte} {w : Half}
    (h : cellsOf w = clockedCells rule pd pc (cellsOf d)) :
    dat w = d ∧ ∀ n, n < 8 →
      (clk w).getLsbD n =
        rule (if n = 7 then pd else d.getLsbD (n + 1))
          (if n = 7 then pc else (clk w).getLsbD (n + 1)) (d.getLsbD n) := by
  rw [cellsOf_half, cellsOf_byte] at h
  simp only [clockedCells, List.cons.injEq, and_true] at h
  obtain ⟨c7, d7, c6, d6, c5, d5, c4, d4, c3, d3, c2, d2, c1, d1, c0, d0⟩ := h
  refine ⟨BitVec.eq_of_getLsbD_eq fun i hi => ?_, fun n hn => ?_⟩
  · rw [dat_getLsbD w i hi]
    interval_cases i <;> assumption
  · interval_cases n <;>
      simp (disch := omega) only [clk_getLsbD, Nat.reduceMul, Nat.reduceAdd, Nat.reduceEqDiff,
        OfNat.zero_ne_ofNat, OfNat.one_ne_ofNat, reduceIte, *]

end Sys2Proof.Machine
end

section
/-! PROOFS. The encoders (spec/40_mfm_fm_m2fm.md R201, R205 to R208, R220 to R224, R230 to R234): each
word an encoder writes is the clocked cells of its byte. -/

namespace Sys2Proof.Machine

/-! ### Each encoder sends clocked cells -/

theorem foldl_mfmEncBit (bits : List Bool) (w : Half) (p pc : Bool) :
    bits.foldl mfmEncBit (w, p) =
      ((clockedCells mfmClock p pc bits).foldl pushCell w, bits.getLastD p) := by
  induction bits generalizing w p pc with
  | nil => rfl
  | cons d ds ih => rw [List.foldl_cons, mfmEncBit, ih _ _ (mfmClock p pc d), List.getLastD_cons]; rfl

theorem foldl_m2fmEncBit (bits : List Bool) (w : Half) (pd pc : Bool) :
    bits.foldl m2fmEncBit ⟨w, pd, pc⟩ =
      ⟨(clockedCells m2fmClock pd pc bits).foldl pushCell w, bits.getLastD pd,
        lastClock m2fmClock pd pc bits⟩ := by
  induction bits generalizing w pd pc with
  | nil => rfl
  | cons d ds ih => rw [List.foldl_cons, m2fmEncBit, ih, List.getLastD_cons]; rfl

/-- The clocked cells of a byte are the cells of a word. -/
theorem cellsOf_foldl_clockedCells (rule : ClockRule) (pd pc : Bool) (d : Byte) (w : Half) :
    cellsOf ((clockedCells rule pd pc (cellsOf d)).foldl pushCell w) =
      clockedCells rule pd pc (cellsOf d) := by
  rw [cellsOf_foldl_pushCell, clockedCells_length, cellsOf_length]
  exact List.drop_left' (cellsOf_length w)

theorem cellsOf_mfmEnc (d : Byte) (p pc : Bool) :
    cellsOf (mfmEnc d p).1 = clockedCells mfmClock p pc (cellsOf d) := by
  rw [mfmEnc, dataBits, foldl_mfmEncBit _ _ _ pc, cellsOf_foldl_clockedCells]

theorem mfmEnc_prev (d : Byte) (p : Bool) : (mfmEnc d p).2 = d.getLsbD 0 := by
  rw [mfmEnc, dataBits, foldl_mfmEncBit _ _ _ false]
  rfl

theorem cellsOf_m2fmEnc (d : Byte) (pd pc : Bool) :
    cellsOf (m2fmEnc d pd pc).word = clockedCells m2fmClock pd pc (cellsOf d) := by
  rw [m2fmEnc, dataBits, foldl_m2fmEncBit, cellsOf_foldl_clockedCells]

theorem m2fmEnc_pd (d : Byte) (pd pc : Bool) : (m2fmEnc d pd pc).pd = d.getLsbD 0 := by
  rw [m2fmEnc, dataBits, foldl_m2fmEncBit]
  rfl

theorem m2fmEnc_pc (d : Byte) (pd pc : Bool) :
    (m2fmEnc d pd pc).pc = lastClock m2fmClock pd pc (cellsOf d) := by
  rw [m2fmEnc, dataBits, foldl_m2fmEncBit]

theorem m2fmEnc_pc_eq_clk (d : Byte) (pd pc : Bool) :
    (m2fmEnc d pd pc).pc = (clk (m2fmEnc d pd pc).word).getLsbD 0 := by
  have h := cellsOf_m2fmEnc d pd pc
  simp only [cellsOf_half, cellsOf_byte, clockedCells, List.cons.injEq] at h
  rw [clk_getLsbD _ 0 (by decide), m2fmEnc_pc]
  simp only [cellsOf_byte, lastClock]
  tauto

theorem cellsOf_fmEnc (d : Byte) (pd pc : Bool) :
    cellsOf (fmEnc d) = clockedCells fmClock pd pc (cellsOf d) := by
  have h : ∀ d, cellsOf (fmEnc d) = clockedCells fmClock false false (cellsOf d) := by decide
  rw [h]
  rfl

theorem dat_mfmEnc (d : Byte) (p : Bool) : dat (mfmEnc d p).1 = d :=
  (dat_clk_of_clockedCells (cellsOf_mfmEnc d p false)).1

theorem dat_m2fmEnc (d : Byte) (pd pc : Bool) : dat (m2fmEnc d pd pc).word = d :=
  (dat_clk_of_clockedCells (cellsOf_m2fmEnc d pd pc)).1

theorem dat_clk_fmEnc (d : Byte) : dat (fmEnc d) = d ∧ clk (fmEnc d) = 0xFF := by
  obtain ⟨hdat, hclk⟩ := dat_clk_of_clockedCells (cellsOf_fmEnc d false false)
  refine ⟨hdat, BitVec.eq_of_getLsbD_eq fun i hi => ?_⟩
  rw [hclk i hi, fmClock]
  interval_cases i <;> rfl

/-! ### What the encode commands write -/

/-- Settles O15, by the clocked cells of MFM. -/
theorem mfmEncodeByteRule : Obligations.MfmEncodeByteRule := by
  unfold Obligations.MfmEncodeByteRule
  intro d s
  obtain ⟨hdat, hclk⟩ := dat_clk_of_clockedCells (cellsOf_mfmEnc d s.enc.mfmprev false)
  exact ⟨_, by rw [← mfmEnc_prev d s.enc.mfmprev]; rfl, hdat, hclk⟩

/-- Settles O18: FM words have every clock bit 1, and the mark words are four constants. -/
theorem fmEncodeRule : Obligations.FmEncodeRule := by
  unfold Obligations.FmEncodeRule
  refine fun s => ⟨fun d => ?_, fun k => ⟨_, rfl, ?_, ?_⟩⟩
  · obtain ⟨hdat, hclk⟩ := dat_clk_fmEnc d
    exact ⟨_, rfl, hclk, hdat⟩
  · cases k <;> decide
  · cases k <;> decide

/-- Settles O19, by the clocked cells of M2FM. -/
theorem m2fmEncodeByteRule : Obligations.M2fmEncodeByteRule := by
  unfold Obligations.M2fmEncodeByteRule
  intro d s
  obtain ⟨hdat, hclk⟩ :=
    dat_clk_of_clockedCells (cellsOf_m2fmEnc d s.enc.m2prevd s.enc.m2prevc)
  refine ⟨_, ?_, hdat, hclk⟩
  rw [← m2fmEnc_pc_eq_clk, ← m2fmEnc_pd d s.enc.m2prevd s.enc.m2prevc]
  rfl

/-- Settles O16, by evaluating the two words. -/
theorem mfmSyncWords : Obligations.MfmSyncWords := by
  unfold Obligations.MfmSyncWords
  decide

/-- Settles O17: each of these commands clears EVT and sets what it names. -/
theorem syncAndPreviousBitCommands : Obligations.SyncAndPreviousBitCommands := by
  unfold Obligations.SyncAndPreviousBitCommands
  exact fun _ _ _ => ⟨rfl, rfl, rfl, rfl, rfl⟩

end Sys2Proof.Machine
end

section
/-! PROOFS. One cell in each framer (spec/40_mfm_fm_m2fm.md R203, R204, R221, R231): the operations of
`framerStep` and `fmFramerStep` in the numbers of the spec's pseudocode. -/

namespace Sys2Proof.Machine

open Sys2Proof.Config

/-! ### The numbers of the pseudocode -/

theorem pushCell_eq_ofNat {w : Nat} (sr : BitVec w) (b : Bool) :
    pushCell sr b = BitVec.ofNat w (2 * sr.toNat + b.toNat) :=
  BitVec.eq_of_toNat_eq (by rw [pushCell_toNat, BitVec.toNat_ofNat])

theorem zeroRun_eq_ofNat (z : BitVec 4) (b : Bool) :
    zeroRun z b = BitVec.ofNat 4 (if b then 0 else min (z.toNat + 1) 15) := by
  revert z b; decide

/-- R204 `viol`. -/
theorem violation_eq (zmax : Nat) (f : Framer) (b : Bool) :
    violation zmax f b =
      ((f.prev && b) || (!b && decide (zmax ≤ if b then 0 else min (f.zrun.toNat + 1) 15))) := by
  rw [violation, zeroRun_toNat]

/-- R203 `consecutive`. -/
theorem a1Count_a1 (f : Framer) :
    a1Count f true =
      if f.locked = true ∧ f.phase = 15 ∧ 1 ≤ f.a1cnt.toNat then BitVec.ofNat 2 (min (f.a1cnt.toNat + 1) 3)
      else 1 := by
  have hpos : ∀ a : BitVec 2, (a != 0) = decide (1 ≤ a.toNat) := by decide
  have hnext : ∀ a : BitVec 2, (if a = 3 then 3 else a + 1) = BitVec.ofNat 2 (min (a.toNat + 1) 3) := by
    decide
  simp only [a1Count, hpos, hnext, Bool.and_eq_true, beq_iff_eq, decide_eq_true_eq, and_assoc, if_true]

theorem a1Count_eq (f : Framer) (isA1 : Bool) :
    a1Count f isA1 =
      if isA1 = false then 0
      else if f.locked = true ∧ f.phase = 15 ∧ 1 ≤ f.a1cnt.toNat then
        BitVec.ofNat 2 (min (f.a1cnt.toNat + 1) 3)
      else 1 := by
  cases isA1 with
  | false => exact (if_pos rfl).symm
  | true => rw [a1Count_a1, if_neg (show ¬true = false by decide)]

/-- The entry a framer recognises is the first of those that match (R231). -/
theorem syncMatch_eq_head? (syncs : List SyncEntry) (f : Framer) (sr : Half) :
    syncMatch syncs f sr =
      (syncs.filter fun x =>
        x.word = sr ∧ (x.isA1 = true ∨ f.locked = false ∨ f.phase = 15)).head? := by
  rw [List.head?_filter, syncMatch]
  congr 1
  funext x
  rw [Bool.eq_iff_iff]
  simp [or_assoc]

/-- EVT after a completed data byte (R36, R202). -/
theorem pack_dataByte (a : BitVec 2) (d : Byte) (e : Bool) :
    ({ byteReady := true, amKind := if a = 3 then amkind d else .notAm, decErr := e } : Events).pack =
      0x01 |||
        (if a = 3 then
          (if d = 0xFE then 0x04 else if d = 0xFB then 0x08 else if d = 0xF8 then 0x0C else 0)
        else 0) |||
        (if e then 0x10 else 0) := by
  unfold amkind
  cases e <;> simp only [Bool.false_eq_true, if_false, if_true] <;> split_ifs <;> rfl

theorem emit_nothing (s : State) : emit {} s = { s with evt := 0 } := rfl

theorem emit_sync (s : State) : emit { byteReady := true, syncDet := true } s = { s with evt := 0x03 } := by
  rw [emit, pack_sync]; rfl

theorem emit_dataByte (a : BitVec 2) (d : Byte) (e : Bool) (s : State) :
    emit { byteReady := true, amKind := if a = 3 then amkind d else .notAm, decErr := e } s =
      { s with
        evt :=
          0x01 |||
            (if a = 3 then
              (if d = 0xFE then 0x04 else if d = 0xFB then 0x08 else if d = 0xF8 then 0x0C else 0)
            else 0) |||
            (if e then 0x10 else 0)
        status := if e then s.status ||| 0x20 else s.status } := by
  rw [emit, pack_dataByte]; rfl

theorem emit_fmByte (c : Byte) (s : State) :
    emit { byteReady := true, decErr := c != 0xFF } s =
      { s with
        evt := if c = 0xFF then 0x01 else 0x11
        status := if c = 0xFF then s.status else s.status ||| 0x20 } := by
  rw [emit, pack_byte]
  by_cases hc : c = 0xFF
  · subst hc; rfl
  · rw [if_neg hc, if_neg hc, bne_iff_ne.2 hc]; rfl

/-! ### The cell rules -/

/-- Settles O21, by the cases of a cell in the framer. -/
theorem m2fmCellRule : Obligations.M2fmCellRule := by
  unfold Obligations.M2fmCellRule
  intro b s
  simp only [← pushCell_eq_ofNat, ← zeroRun_eq_ofNat, Bool.or_assoc, ← violation_eq,
    ← syncMatch_eq_head?]
  simp only [exec, execM2fmDecCell]
  rcases framerStep_cases s.params.m2fmSync 5 s.m2 b with
    ⟨e, _, hm, _, _, h⟩ | ⟨hm, hl, h⟩ | ⟨hm, hl, hp, h⟩ | ⟨hm, hl, hp, h⟩ <;> rw [h, hm] <;> dsimp only
  · rw [emit_sync, a1Count_eq]; rfl
  · rw [emit_nothing, if_pos hl]; rfl
  · rw [emit_dataByte, hl, if_neg (show true ≠ false by decide), if_pos hp]; rfl
  · rw [emit_nothing, hl, if_neg (show true ≠ false by decide), if_neg hp]; rfl

/-- An MFM framer recognises an A1 always, and a C2 while unlocked or on the byte grid (R203). -/
theorem syncMatch_mfm (f : Framer) (sr : Half) :
    syncMatch mfmSyncs f sr =
      if sr = 0x4489 then some ⟨0x4489, 0xA1, true⟩
      else if sr = 0x5224 ∧ (f.locked = false ∨ f.phase = 15) then some ⟨0x5224, 0xC2, false⟩
      else none := by
  rcases eq_or_ne sr 0x4489 with rfl | ha
  · rfl
  have ha' : ((0x4489 : Half) == sr) = false := beq_eq_false_iff_ne.2 ha.symm
  rw [if_neg ha]
  rcases eq_or_ne sr 0x5224 with rfl | hc
  · cases hl : f.locked <;> by_cases hp : f.phase = 15 <;> simp [syncMatch, mfmSyncs, hl, hp]
  · have hc' : ((0x5224 : Half) == sr) = false := beq_eq_false_iff_ne.2 hc.symm
    rw [if_neg fun h => hc h.1]
    simp only [syncMatch, mfmSyncs, List.find?_cons, List.find?_nil, ha', hc', Bool.false_and]

/-- Settles O20, by the cases of a cell in the framer. -/
theorem mfmCellRule : Obligations.MfmCellRule := by
  unfold Obligations.MfmCellRule
  intro b s
  simp only [← pushCell_eq_ofNat, ← zeroRun_eq_ofNat, Bool.or_assoc, ← violation_eq]
  simp only [exec, execMfmDecCell]
  rcases framerStep_cases mfmSyncs 4 s.mfm b with
    ⟨e, _, hm, _, _, h⟩ | ⟨hm, hl, h⟩ | ⟨hm, hl, hp, h⟩ | ⟨hm, hl, hp, h⟩ <;>
    rw [h] <;> dsimp only <;> rw [syncMatch_mfm] at hm <;> split_ifs at hm with ha hc
  · obtain rfl := Option.some.inj hm
    rw [if_pos ha, a1Count_a1, emit_sync]; rfl
  · obtain rfl := Option.some.inj hm
    rw [if_neg ha, if_pos hc, emit_sync]; rfl
  · rw [if_neg ha, if_neg hc, if_pos hl, emit_nothing]; rfl
  · rw [if_neg ha, if_neg hc, hl, if_neg (show true ≠ false by decide), if_pos hp, emit_dataByte]; rfl
  · rw [if_neg ha, if_neg hc, hl, if_neg (show true ≠ false by decide), if_neg hp, emit_nothing]; rfl

/-- Settles O22, by the cases of a cell in the framer. -/
theorem fmCellRule : Obligations.FmCellRule := by
  unfold Obligations.FmCellRule
  intro b s
  simp only [← pushCell_eq_ofNat]
  simp only [exec, execFmDecCell]
  rcases fmFramerStep_cases s.fm b with ⟨k, hk, h⟩ | ⟨hno, hcell⟩
  · rw [h, ← hk]
    cases k <;> rfl
  have hidam : pushCell s.fm.sr b ≠ 0xF57E := (hno .idam).symm
  have hdam : pushCell s.fm.sr b ≠ 0xF56F := (hno .dam).symm
  have hddam : pushCell s.fm.sr b ≠ 0xF56A := (hno .ddam).symm
  have hiam : pushCell s.fm.sr b ≠ 0xF77A := (hno .iam).symm
  rw [if_neg hidam, if_neg hdam, if_neg hddam, if_neg hiam]
  rcases hcell with ⟨hl, h⟩ | ⟨hl, hp, h⟩ | ⟨hl, hp, h⟩ <;> rw [h] <;> dsimp only
  · rw [if_pos hl]; rfl
  · rw [hl, if_neg (show true ≠ false by decide), if_pos hp, emit_fmByte]; rfl
  · rw [hl, if_neg (show true ≠ false by decide), if_neg hp]; rfl

end Sys2Proof.Machine
end

section
/-! PROOFS. What a framer reports of a list of cells (spec/40_mfm_fm_m2fm.md R203, R221, R231): a run of
cell commands shows the host exactly what the framer's own cell step reports, cell by cell. -/

namespace Sys2Proof.Machine

open Sys2Proof.Config

/-! ### A framer alone -/

section
variable {σ : Type} (stp : σ → Bool → CellReport σ)

/-- The framer after a list of cells. -/
def runFramer (f : σ) (cells : List Bool) : σ := cells.foldl (fun f b => (stp f b).framer) f

/-- DOUT0 and EVT after a cell that completes a byte. -/
def cellReport (r : CellReport σ) : List (Word × Byte) :=
  r.out.toList.map fun v => (zext32 v, r.events.pack)

/-- What a framer reports of a list of cells. -/
def cellReports : σ → List Bool → List (Word × Byte)
  | _, [] => []
  | f, b :: cells => cellReport (stp f b) ++ cellReports (stp f b).framer cells

theorem runFramer_cons (f : σ) (b : Bool) (cells : List Bool) :
    runFramer stp f (b :: cells) = runFramer stp (stp f b).framer cells := rfl

theorem runFramer_append (f : σ) (l m : List Bool) :
    runFramer stp f (l ++ m) = runFramer stp (runFramer stp f l) m := List.foldl_append

theorem cellReports_append (f : σ) (l m : List Bool) :
    cellReports stp f (l ++ m) = cellReports stp f l ++ cellReports stp (runFramer stp f l) m := by
  induction l generalizing f with
  | nil => rfl
  | cons b l ih => rw [List.cons_append, cellReports, ih, cellReports, runFramer_cons, List.append_assoc]

/-! ### A framer in the block -/

/-- The commands `mk` push cells into the framer that `view` shows, whose cell step is `stp`: the step
sets the framer, DOUT0 if a byte completes, and EVT, which is 0 unless a byte completes. -/
structure DecodesCells (p : Params) (mk : Bool → Instr) (view : State → σ) : Prop where
  step : ∀ b s, s.params = p → ∃ t, exec (mk b) s = .next t ∧ t.params = p ∧
    view t = (stp (view s) b).framer ∧ t.evt = (stp (view s) b).events.pack ∧
    t.dout0 = byteOut (stp (view s) b).out s.dout0
  evt : ∀ f b, ((stp f b).events.pack != 0) = (stp f b).out.isSome

variable {stp} {p : Params} {mk : Bool → Instr} {view : State → σ}

/-- One cell at the head of a run. -/
theorem DecodesCells.reports_cons (h : DecodesCells stp p mk view) {s : State} (hs : s.params = p)
    (b : Bool) (is : List Instr) :
    ∃ t, exec (mk b) s = .next t ∧ t.params = p ∧ view t = (stp (view s) b).framer ∧
      reports (mk b :: is) s = cellReport (stp (view s) b) ++ reports is t := by
  obtain ⟨t, he, hp, hv, hevt, hout⟩ := h.step b s hs
  refine ⟨t, he, hp, hv, ?_⟩
  have hsome := h.evt (view s) b
  rw [← hevt] at hsome
  rw [reports, execTrace_cons he, List.filter_cons, hsome, cellReport]
  cases ho : (stp (view s) b).out with
  | none => rfl
  | some v =>
    rw [ho] at hout
    simp [← hevt, hout, byteOut, reports]

theorem DecodesCells.reports_eq (h : DecodesCells stp p mk view) (cells : List Bool) {s : State}
    (hs : s.params = p) : reports (cells.map mk) s = cellReports stp (view s) cells := by
  induction cells generalizing s with
  | nil => rfl
  | cons b cells ih =>
    obtain ⟨t, _, hp, hv, hr⟩ := h.reports_cons hs b (cells.map mk)
    rw [List.map_cons, hr, ih hp, hv, cellReports]

theorem DecodesCells.execAll_eq (h : DecodesCells stp p mk view) (cells : List Bool) {s : State}
    (hs : s.params = p) :
    (execAll (cells.map mk) s).map view = some (runFramer stp (view s) cells) := by
  induction cells generalizing s with
  | nil => rfl
  | cons b cells ih =>
    obtain ⟨t, he, hp, hv, _⟩ := h.step b s hs
    rw [List.map_cons, execAll_cons he, ih hp, hv, runFramer_cons]

end

theorem pack_ne_zero {e : Events} (h : e.byteReady = true) : (e.pack != 0) = true :=
  bne_iff_ne.2 fun h0 => by
    rw [← pack_byteReady, h0] at h
    cases h

theorem pack_nothing : (({} : Events).pack != 0) = false := by decide

theorem framerStep_evt (syncs : List SyncEntry) (zmax : Nat) (f : Framer) (b : Bool) :
    ((framerStep syncs zmax f b).events.pack != 0) = (framerStep syncs zmax f b).out.isSome := by
  rcases framerStep_cases syncs zmax f b with
    ⟨_, _, _, _, _, h⟩ | ⟨_, _, h⟩ | ⟨_, _, _, h⟩ | ⟨_, _, _, h⟩ <;> rw [h]
  · exact pack_ne_zero rfl
  · exact pack_nothing
  · exact pack_ne_zero rfl
  · exact pack_nothing

theorem fmFramerStep_evt (f : FmFramer) (b : Bool) :
    ((fmFramerStep f b).events.pack != 0) = (fmFramerStep f b).out.isSome := by
  rcases fmFramerStep_cases f b with ⟨k, _, h⟩ | ⟨_, ⟨_, h⟩ | ⟨_, _, h⟩ | ⟨_, _, h⟩⟩ <;> rw [h]
  · exact pack_ne_zero rfl
  · exact pack_nothing
  · exact pack_ne_zero rfl
  · exact pack_nothing

theorem mfm_decodesCells (p : Params) : DecodesCells (framerStep mfmSyncs 4) p .mfmDecCell (·.mfm) :=
  ⟨fun _ _ hs => ⟨_, rfl, hs, rfl, rfl, rfl⟩, framerStep_evt mfmSyncs 4⟩

theorem m2fm_decodesCells (p : Params) : DecodesCells (framerStep p.m2fmSync 5) p .m2fmDecCell (·.m2) :=
  ⟨fun _ _ hs => ⟨_, rfl, hs, hs ▸ rfl, hs ▸ rfl, hs ▸ rfl⟩, framerStep_evt p.m2fmSync 5⟩

theorem fm_decodesCells (p : Params) : DecodesCells fmFramerStep p .fmDecCell (·.fm) :=
  ⟨fun _ _ hs => ⟨_, rfl, hs, rfl, rfl, rfl⟩, fmFramerStep_evt⟩

end Sys2Proof.Machine
end

section
/-! PROOFS. What the MFM and M2FM framer reports of cells that keep its run limits (spec/40_mfm_fm_m2fm.md
R203, R204, R231): word by word on its grid, without error. -/

namespace Sys2Proof.Machine

open Sys2Proof.Config

/-! ### Cells that keep the rules -/

/-- After what the framer `f` holds, `cells` have no 1 next to a 1, no run of `zmax` 0 cells, and complete
no A1 sync word. -/
structure CleanCells (syncs : List SyncEntry) (zmax : Nat) (f : Framer) (cells : List Bool) : Prop where
  apart : ¬ [true, true] <:+: f.prev :: cells
  short : ¬ List.replicate zmax false <:+: List.replicate f.zrun.toNat false ++ cells
  noA1 : ∀ e ∈ syncs, e.isA1 = true → ¬ cellsOf e.word <:+: (cellsOf f.sr).tail ++ cells

section
variable {syncs : List SyncEntry} {zmax : Nat} {f : Framer} {b : Bool} {cells : List Bool}

theorem replicate_suffix_of_le {m n : Nat} (h : m ≤ n) :
    List.replicate m false <:+ List.replicate n false :=
  ⟨List.replicate (n - m) false, by rw [← List.replicate_add, Nat.sub_add_cancel h]⟩

/-- The run of 0 cells that the framer counts is a part of the cells it was sent. -/
theorem replicate_zeroRun_suffix (z : BitVec 4) (b : Bool) :
    List.replicate (zeroRun z b).toNat false <:+ List.replicate z.toNat false ++ [b] := by
  cases b with
  | true => exact List.nil_suffix
  | false =>
    rw [← List.replicate_succ']
    exact replicate_suffix_of_le (by rw [zeroRun_toNat]; exact min_le_left _ _)

/-- R204: the next cell is no violation. -/
theorem CleanCells.no_violation (h : CleanCells syncs zmax f (b :: cells)) : violation zmax f b = false := by
  rw [violation, Bool.or_eq_false_iff]
  constructor
  · by_contra hadj
    obtain ⟨hp, rfl⟩ : f.prev = true ∧ b = true := by simpa using hadj
    exact h.apart (hp ▸ ⟨[], cells, rfl⟩)
  · by_contra hrun
    obtain ⟨rfl, hz⟩ : b = false ∧ zmax ≤ (zeroRun f.zrun b).toNat := by simpa using hrun
    have hrun := ((replicate_suffix_of_le hz).trans (replicate_zeroRun_suffix f.zrun false)).isInfix
    exact h.short (by rw [List.append_cons]; exact hrun.trans (List.prefix_append _ cells).isInfix)

theorem CleanCells.no_a1 (h : CleanCells syncs zmax f (b :: cells)) {e : SyncEntry} (he : e ∈ syncs)
    (ha : e.isA1 = true) : e.word ≠ pushCell f.sr b := by
  intro hw
  refine h.noA1 e he ha ⟨[], cells, ?_⟩
  rw [hw, cellsOf_pushCell, List.nil_append, List.append_assoc]
  rfl

theorem CleanCells.next (h : CleanCells syncs zmax f (b :: cells)) :
    CleanCells syncs zmax (framerStep syncs zmax f b).framer cells where
  apart hi := by
    rw [framerStep_prev] at hi
    exact h.apart (hi.trans (List.suffix_cons _ _).isInfix)
  short hi := by
    rw [framerStep_zrun] at hi
    refine h.short (hi.trans ?_)
    rw [List.append_cons]
    exact (List.suffix_append_self_iff.2 (replicate_zeroRun_suffix f.zrun b)).isInfix
  noA1 e he ha hi := by
    rw [framerStep_sr, cellsOf_pushCell] at hi
    refine h.noA1 e he ha (hi.trans ?_)
    rw [List.append_cons]
    exact (List.suffix_append_self_iff.2 (List.tail_suffix _)).isInfix

/-! ### Inside a byte -/

/-- The framer is `n` cells into a byte, without error, and holds the count `a` of A1 syncs. -/
structure InByte (f : Framer) (n : Nat) (a : BitVec 2) : Prop where
  locked : f.locked = true
  err : f.err = false
  phase : f.phase.toNat = n
  a1cnt : f.a1cnt = a

/-- A clean cell that is not the last of a byte is taken in silence. -/
theorem framerStep_inByte {n : Nat} {a : BitVec 2} (hf : InByte f n a) (hn : n < 15)
    (h : CleanCells syncs zmax f (b :: cells)) :
    cellReport (framerStep syncs zmax f b) = [] ∧ InByte (framerStep syncs zmax f b).framer (n + 1) a := by
  have hp : f.phase ≠ 15 := fun hp => by have := hf.phase; rw [hp] at this; simp at this; omega
  rcases framerStep_cases syncs zmax f b with
    ⟨e, he, _, hw, hc, hs⟩ | ⟨_, hl, _⟩ | ⟨_, _, hp', _⟩ | ⟨_, _, _, hs⟩
  · rcases hc with ha | hl | hp'
    · exact absurd hw (h.no_a1 he ha)
    · exact absurd hl (by simp [hf.locked])
    · exact absurd hp' hp
  · exact absurd hl (by simp [hf.locked])
  · exact absurd hp' hp
  · rw [hs]
    refine ⟨rfl, rfl, ?_, ?_, hf.a1cnt⟩
    · simp [hf.err, h.no_violation]
    · have := hf.phase
      show (f.phase + 1).toNat = n + 1
      simp [BitVec.toNat_add]; omega

theorem runFramer_inByte {n : Nat} {a : BitVec 2} {l : List Bool} (hf : InByte f n a)
    (hn : n + l.length ≤ 15) (h : CleanCells syncs zmax f (l ++ cells)) :
    cellReports (framerStep syncs zmax) f l = [] ∧
      InByte (runFramer (framerStep syncs zmax) f l) (n + l.length) a ∧
      CleanCells syncs zmax (runFramer (framerStep syncs zmax) f l) cells := by
  induction l generalizing f n with
  | nil => exact ⟨rfl, hf, h⟩
  | cons b l ih =>
    rw [List.length_cons] at hn ⊢
    obtain ⟨hr, hf'⟩ := framerStep_inByte hf (by omega) h
    obtain ⟨hr', hf'', h'⟩ := ih hf' (by omega) h.next
    rw [cellReports, hr, hr', runFramer_cons]
    exact ⟨rfl, by rwa [Nat.add_right_comm] at hf'', h'⟩

theorem runFramer_sr (f : Framer) (l : List Bool) :
    (runFramer (framerStep syncs zmax) f l).sr = l.foldl pushCell f.sr := by
  induction l generalizing f with
  | nil => rfl
  | cons b l ih => rw [runFramer_cons, ih, framerStep_sr, List.foldl_cons]

/-! ### A word on the byte grid -/

/-- What the cells of the word `w` report on the byte grid after `a` A1 syncs: a sync, or a data byte. -/
def wordReport (syncs : List SyncEntry) (a : BitVec 2) (w : Half) : Word × Byte :=
  match syncs.find? (·.word == w) with
  | some e => (zext32 e.byte, 0x03)
  | none =>
    (zext32 (dat w),
      0x01 ||| if a = 3 then
        (if dat w = 0xFE then 0x04 else if dat w = 0xFB then 0x08 else if dat w = 0xF8 then 0x0C else 0)
      else 0)

theorem wordReport_of_ne {a : BitVec 2} (ha : a ≠ 3) (syncs : List SyncEntry) (w : Half) :
    wordReport syncs a w = wordReport syncs 0 w := by
  simp only [wordReport, if_neg ha, if_neg (show (0 : BitVec 2) ≠ 3 by decide)]

/-- The last cell of a clean word. -/
theorem framerStep_lastCell {a : BitVec 2} (hf : InByte f 15 a)
    (h : CleanCells syncs zmax f (b :: cells)) :
    cellReport (framerStep syncs zmax f b) = [wordReport syncs a (pushCell f.sr b)] ∧
      InByte (framerStep syncs zmax f b).framer 0 0 := by
  have hp : f.phase = 15 := BitVec.eq_of_toNat_eq hf.phase
  have hm : syncMatch syncs f (pushCell f.sr b) = syncs.find? (·.word == pushCell f.sr b) := by
    simp [syncMatch, hp]
  rcases framerStep_cases syncs zmax f b with
    ⟨e, he, hsync, hw, _, hs⟩ | ⟨_, hl, _⟩ | ⟨hno, _, _, hs⟩ | ⟨_, _, hp', _⟩
  · rw [wordReport, ← hm, hsync, hs]
    have ha : e.isA1 = false := Bool.eq_false_iff.2 fun ha => h.no_a1 he ha hw
    exact ⟨by rw [cellReport, pack_sync]; rfl, rfl, rfl, rfl, by rw [ha]; rfl⟩
  · exact absurd hl (by simp [hf.locked])
  · rw [wordReport, ← hm, hno, hs, hf.err, h.no_violation, hf.a1cnt]
    exact ⟨by rw [cellReport, pack_dataByte]; simp, rfl, rfl, rfl, rfl⟩
  · exact absurd hp hp'

/-- The cells of a word from the byte grid on. -/
theorem cellReports_word {a : BitVec 2} {w : Half} (hf : InByte f 0 a)
    (h : CleanCells syncs zmax f (cellsOf w ++ cells)) :
    cellReports (framerStep syncs zmax) f (cellsOf w) = [wordReport syncs a w] ∧
      InByte (runFramer (framerStep syncs zmax) f (cellsOf w)) 0 0 ∧
      CleanCells syncs zmax (runFramer (framerStep syncs zmax) f (cellsOf w)) cells := by
  have hsplit : (cellsOf w).take 15 ++ [w.getLsbD 0] = cellsOf w := rfl
  rw [← hsplit, List.append_assoc] at h
  obtain ⟨hr, hf', h'⟩ := runFramer_inByte hf (by simp) h
  obtain ⟨hlast, hf''⟩ := framerStep_lastCell hf' h'
  have hsr : pushCell (((cellsOf w).take 15).foldl pushCell f.sr) (w.getLsbD 0) = w :=
    foldl_pushCell_cellsOf_half w f.sr
  rw [runFramer_sr, hsr] at hlast
  rw [← hsplit, cellReports_append, runFramer_append, hr]
  exact ⟨by rw [cellReports, hlast]; rfl, hf'', h'.next⟩

/-! ### A stream of words -/

/-- A clean stream of words from the byte grid on is reported word for word; fewer than 16 cells after
it report nothing. -/
theorem cellReports_words {a : BitVec 2} (ha : a ≠ 3) (ws : List Half) {rest : List Bool}
    (hrest : rest.length ≤ 15) (hf : InByte f 0 a)
    (h : CleanCells syncs zmax f (cellsOfWords ws ++ rest)) :
    cellReports (framerStep syncs zmax) f (cellsOfWords ws ++ rest) = ws.map (wordReport syncs 0) := by
  induction ws generalizing f a with
  | nil =>
    exact (runFramer_inByte (l := rest) (cells := []) hf (by simpa using hrest) (by rwa [List.append_nil])).1
  | cons w ws ih =>
    rw [cellsOfWords_cons, List.append_assoc] at h ⊢
    obtain ⟨hr, hf', h'⟩ := cellReports_word hf h
    rw [cellReports_append, hr, ih (by decide) hf' h', wordReport_of_ne ha]
    rfl

/-- No word of a clean stream is an A1 sync word. -/
theorem CleanCells.ne_a1 {ws : List Half} {rest : List Bool}
    (h : CleanCells syncs zmax f (cellsOfWords ws ++ rest)) {w : Half} (hw : w ∈ ws) {e : SyncEntry}
    (he : e ∈ syncs) (ha : e.isA1 = true) : e.word ≠ w := by
  rintro rfl
  refine h.noA1 e he ha ((cellsOf_infix_cellsOfWords hw).trans ?_)
  rw [← List.append_assoc]
  exact List.infix_append _ _ _

/-- Only the first word of a stream is examined for an address mark (R202). -/
theorem cellReports_stream {a : BitVec 2} (w : Half) (ws : List Half) (hf : InByte f 0 a)
    (h : CleanCells syncs zmax f (cellsOfWords (w :: ws))) :
    cellReports (framerStep syncs zmax) f (cellsOfWords (w :: ws)) =
      wordReport syncs a w :: ws.map (wordReport syncs 0) := by
  rw [cellsOfWords_cons] at h ⊢
  obtain ⟨hr, hf', h'⟩ := cellReports_word hf h
  have htail := cellReports_words (rest := []) (by decide) ws (by decide) hf'
    (by rwa [List.append_nil])
  rw [List.append_nil] at htail
  rw [cellReports_append, hr, htail]
  rfl

/-- A word that is no sync word reports its data byte. -/
theorem wordReport_of_no_sync {w : Half} (h : ∀ e ∈ syncs, e.word ≠ w) (a : BitVec 2) :
    wordReport syncs a w =
      (zext32 (dat w),
        0x01 ||| if a = 3 then
          (if dat w = 0xFE then 0x04 else if dat w = 0xFB then 0x08 else if dat w = 0xF8 then 0x0C else 0)
        else 0) := by
  have hno : syncs.find? (·.word == w) = none := List.find?_eq_none.2 (by simpa using h)
  rw [wordReport, hno]

theorem wordReport_zero_of_no_sync {w : Half} (h : ∀ e ∈ syncs, e.word ≠ w) :
    wordReport syncs 0 w = ((dat w).setWidth 32, 0x01) := by
  simp [wordReport_of_no_sync h, zext32]

/-- Words without a sync word report their data bytes. -/
theorem map_wordReport_of_no_sync {ws : List Half} (h : ∀ w ∈ ws, ∀ e ∈ syncs, e.word ≠ w) :
    ws.map (wordReport syncs 0) = (ws.map dat).map fun x => (x.setWidth 32, 0x01) := by
  rw [List.map_map]
  exact List.map_congr_left fun w hw => wordReport_zero_of_no_sync (h w hw)

end
end Sys2Proof.Machine
end

section
/-! PROOFS. Streams of MFM-encoded bytes (spec/40_mfm_fm_m2fm.md R202, R203, R205, R209): their run limits,
and what the framer reports of them after an A1 sync. -/

namespace Sys2Proof.Machine

open Sys2Proof.Config

/-! ### The cells of MFM-encoded bytes -/

theorem cellsOfWords_mfmWords (p pc : Bool) (ds : List Byte) :
    cellsOfWords (mfmWords p ds) = clockedCells mfmClock p pc (ds.flatMap cellsOf) := by
  induction ds generalizing p pc with
  | nil => rfl
  | cons d ds ih =>
    rw [mfmWords, cellsOfWords_cons, cellsOf_mfmEnc d p pc, mfmEnc_prev, List.flatMap_cons,
      clockedCells_append, ih]
    rfl

theorem map_dat_mfmWords (p : Bool) (ds : List Byte) : (mfmWords p ds).map dat = ds := by
  induction ds generalizing p with
  | nil => rfl
  | cons d ds ih =>
    rw [mfmWords, List.map_cons, ih, dat_mfmEnc]

/-- The encoding of a byte is no sync word. -/
theorem mfmEnc_ne_sync (d : Byte) (p : Bool) : ∀ e ∈ mfmSyncs, e.word ≠ (mfmEnc d p).1 := by
  have hfit := clockFits_of_prefix (List.prefix_rfl (l := clockedCells mfmClock p false (cellsOf d)))
  rw [← cellsOf_mfmEnc] at hfit
  intro e he hw
  rw [← hw] at hfit
  have hno : ∀ p, ∀ e ∈ mfmSyncs, clockFits mfmClock p false (cellsOf e.word) = false := by decide
  rw [hno p e he] at hfit
  cases hfit

theorem mfmWords_ne_sync (p : Bool) (ds : List Byte) :
    ∀ w ∈ mfmWords p ds, ∀ e ∈ mfmSyncs, e.word ≠ w := by
  induction ds generalizing p with
  | nil => simp [mfmWords]
  | cons d ds ih => exact List.forall_mem_cons.2 ⟨mfmEnc_ne_sync d p, ih _⟩

theorem mfm_no_adjacent_ones : ¬ WindowFits mfmClock [true, true] := by decide

theorem mfm_no_four_zeros : ¬ WindowFits mfmClock (List.replicate 4 false) := by decide

theorem mfm_no_a1 : ¬ WindowFits mfmClock (cellsOf (0x4489 : Half)) := by decide

/-- Settles O25: none of the three patterns fits the clock rule at any cell offset. -/
theorem mfmEncodedRuns : Obligations.MfmEncodedRuns := by
  unfold Obligations.MfmEncodedRuns
  intro p ds
  rw [cellsOfWords_mfmWords p false]
  exact ⟨fun h => mfm_no_adjacent_ones (windowFits_of_infix h),
    fun h => mfm_no_four_zeros (windowFits_of_infix h), fun h => mfm_no_a1 (windowFits_of_infix h)⟩

/-! ### After an A1 sync -/

/-- The MFM framer right after an A1 sync, the `a`th of its run. -/
def afterA1 (a : BitVec 2) : Framer := ⟨0x4489, 0, a, true, true, 0, false⟩

theorem inByte_afterA1 (a : BitVec 2) : InByte (afterA1 a) 0 a := ⟨rfl, rfl, rfl, rfl⟩

/-- The cells from the A1 word's tenth cell on: what completes another A1 after an A1. -/
def a1Again : List Bool := (cellsOf (0x4489 : Half)).drop 9

/-- The A1 word overlaps itself after 7 cells and after 14 only. -/
theorem a1_overlap (k : Nat) (hk : k ≤ 16)
    (h : (cellsOf (0x4489 : Half)).take k <:+ (cellsOf (0x4489 : Half)).tail) : k = 0 ∨ k = 2 ∨ k = 9 := by
  revert k; decide

theorem cleanCells_afterA1 {a : BitVec 2} {cells : List Bool} (hapart : ¬ [true, true] <:+: true :: cells)
    (hshort : ¬ List.replicate 4 false <:+: cells) (ha1 : ¬ cellsOf (0x4489 : Half) <:+: cells)
    (h7 : ¬ a1Again <+: cells) (h14 : ¬ (cellsOf (0x4489 : Half)).drop 2 <+: cells) :
    CleanCells mfmSyncs 4 (afterA1 a) cells where
  apart := hapart
  short := hshort
  noA1 e he ha hi := by
    have hone : ∀ e ∈ mfmSyncs, e.isA1 = true → e = ⟨0x4489, 0xA1, true⟩ := by decide
    obtain rfl := hone e he ha
    rcases infix_append_cases hi with hi | hi | ⟨k, hk, hpre, hsuf⟩
    · exact absurd hi.length_le (by simp [afterA1])
    · exact ha1 hi
    · rcases a1_overlap k hk hpre with rfl | rfl | rfl
      · exact ha1 hsuf.isInfix
      · exact h14 hsuf
      · exact h7 hsuf

/-- The cells of encoded bytes complete another A1 after an A1 exactly if the first is 0x40 to 0x4F. -/
theorem a1Again_prefix_iff (d : Byte) (ds : List Byte) :
    a1Again <+: cellsOfWords (mfmWords true (d :: ds)) ↔ d.extractLsb' 4 4 = 4 := by
  have hbyte : ∀ d : Byte, a1Again <+: clockedCells mfmClock true false (cellsOf d) ↔
      d.extractLsb' 4 4 = 4 := by decide
  rw [← hbyte, ← cellsOf_mfmEnc]
  exact ⟨fun h => List.prefix_of_prefix_length_le h (List.prefix_append _ _) (by simp [a1Again]),
    fun h => h.trans (List.prefix_append _ _)⟩

/-- Cells that do not fit the clock rule after a data bit 1 do not begin the bytes encoded after one. -/
theorem not_prefix_of_not_fits {ds : List Byte} {X : List Bool}
    (hX : clockFits mfmClock true false X = false) : ¬ X <+: cellsOfWords (mfmWords true ds) := by
  rw [cellsOfWords_mfmWords true false]
  intro h
  rw [clockFits_of_prefix h] at hX
  cases hX

/-- Encoded bytes after an A1 sync are clean, unless the first is 0x40 to 0x4F. -/
theorem cleanCells_mfmWords (a : BitVec 2) {d : Byte} {ds : List Byte} (hd : d.extractLsb' 4 4 ≠ 4) :
    CleanCells mfmSyncs 4 (afterA1 a) (cellsOfWords (mfmWords true (d :: ds))) := by
  obtain ⟨hapart, hshort, ha1⟩ := mfmEncodedRuns true (d :: ds)
  refine cleanCells_afterA1 (fun h => ?_) hshort ha1 (fun h => hd ((a1Again_prefix_iff d ds).1 h))
    (not_prefix_of_not_fits (by decide))
  rcases List.infix_cons_iff.1 h with h | h
  · exact not_prefix_of_not_fits (X := [true]) (by decide) (List.cons_prefix_cons.1 h).2
  · exact hapart h

/-- What follows the first seven cells of a byte 0x40 to 0x4F is clean after the A1 they complete. -/
theorem cleanCells_regrid (a : BitVec 2) {ds : List Byte} {rest : List Bool}
    (h : a1Again ++ rest = cellsOfWords (mfmWords true ds)) :
    CleanCells mfmSyncs 4 (afterA1 a) rest := by
  obtain ⟨hapart, hshort, ha1⟩ := mfmEncodedRuns true ds
  rw [← h] at hapart hshort ha1
  have hsuf : rest <:+ a1Again ++ rest := List.suffix_append _ _
  have hzeros : ¬ [false, false, false] <+: rest := fun hz =>
    not_prefix_of_not_fits (X := a1Again ++ [false, false, false]) (by decide)
      (h ▸ (List.prefix_append_right_inj a1Again).2 hz)
  refine cleanCells_afterA1 (fun hi => hapart (hi.trans ?_)) (fun hi => hshort (hi.trans hsuf.isInfix))
    (fun hi => ha1 (hi.trans hsuf.isInfix)) (fun hp => hzeros (.trans ?_ hp))
    (fun hp => hzeros (.trans ?_ hp))
  · exact List.IsSuffix.isInfix ⟨a1Again.take 6, rfl⟩
  · decide
  · decide

/-! ### Cells in groups of 16 -/

/-- The word of the `k`th group of 16 cells. -/
def groupWord (l : List Bool) (k : Nat) : Half := ((l.drop (16 * k)).take 16).foldl pushCell 0

theorem cellsOf_foldl_of_length {l : List Bool} (hl : l.length = 16) (sr : Half) :
    cellsOf (l.foldl pushCell sr) = l := by
  rw [cellsOf_foldl_pushCell, hl, List.drop_left' (cellsOf_length sr)]

/-- A list of cells is the words of its groups, and what is left over. -/
theorem cellsOfWords_groupWord (l : List Bool) (n : Nat) (hn : 16 * n ≤ l.length) :
    cellsOfWords ((List.range n).map (groupWord l)) ++ l.drop (16 * n) = l := by
  induction n with
  | zero => rfl
  | succ n ih =>
    have hgroup : cellsOf (groupWord l n) = (l.drop (16 * n)).take 16 :=
      cellsOf_foldl_of_length (by simp; omega) 0
    rw [List.range_succ, List.map_append, cellsOfWords, List.flatMap_append, List.append_assoc]
    conv_rhs => rw [← ih (by omega), ← List.take_append_drop 16 (l.drop (16 * n)), ← hgroup]
    simp [cellsOfWords, Nat.mul_add]

/-- On the new grid a word is a C2 sync or data. -/
theorem wordReport_mfm {w : Half} (hw : w ≠ 0x4489) :
    wordReport mfmSyncs 0 w = ((dat w).setWidth 32, if w = 0x5224 then 0x03 else 0x01) := by
  by_cases hc : w = 0x5224
  · subst hc; rfl
  · rw [if_neg hc]
    exact wordReport_zero_of_no_sync
      (List.forall_mem_cons.2 ⟨hw.symm, List.forall_mem_singleton.2 (Ne.symm hc)⟩)

/-- The seven cells realign the framer as after the first A1 of a new run (R203 corner case 5). -/
theorem realign_afterA1 (a : BitVec 2) :
    runFramer (framerStep mfmSyncs 4) (afterA1 a) a1Again = afterA1 1 ∧
      cellReports (framerStep mfmSyncs 4) (afterA1 a) a1Again = [(0xA1, 0x03)] := by
  revert a; decide

/-- On the new grid the framer reports group by group. -/
theorem cellReports_regrid {rest : List Bool} (n : Nat) (hlen : rest.length = 16 * n + 9)
    (hclean : CleanCells mfmSyncs 4 (afterA1 1) rest) :
    cellReports (framerStep mfmSyncs 4) (afterA1 1) rest =
      (List.range n).map fun k =>
        ((dat (groupWord rest k)).setWidth 32, if groupWord rest k = 0x5224 then 0x03 else 0x01) := by
  have hwords := cellsOfWords_groupWord rest n (by omega)
  rw [← hwords] at hclean
  have hreports := cellReports_words (by decide) _ (by simp; omega) (inByte_afterA1 1) hclean
  rw [hwords, List.map_map] at hreports
  rw [hreports]
  refine List.map_congr_left fun k hk => wordReport_mfm (Ne.symm ?_)
  exact hclean.ne_a1 (List.mem_map_of_mem hk) (e := ⟨0x4489, 0xA1, true⟩) (by decide) rfl

/-- Settles O27: the cells after an A1 sync are clean, at once or from the second A1 on. -/
theorem mfmStreamDecodes : Obligations.MfmStreamDecodes := by
  unfold Obligations.MfmStreamDecodes
  intro s a d ds hs cells regrid
  have hs : s.mfm = afterA1 a := hs
  have hunit := mfm_decodesCells s.params
  refine ⟨fun hd => ?_, fun hd => ?_⟩
  · have hstream := cellReports_stream (mfmEnc d true).1 (mfmWords (mfmEnc d true).2 ds)
      (inByte_afterA1 a) (cleanCells_mfmWords a hd)
    rw [wordReport_of_no_sync (mfmEnc_ne_sync d true), map_wordReport_of_no_sync (mfmWords_ne_sync _ ds),
      map_dat_mfmWords, dat_mfmEnc] at hstream
    rw [hunit.reports_eq _ rfl, hs]
    exact hstream
  · obtain ⟨rest, hrest⟩ := (a1Again_prefix_iff d ds).2 hd
    have hcells : cells = a1Again ++ rest := hrest.symm
    obtain ⟨hframer, hreport⟩ := realign_afterA1 a
    refine ⟨?_, ?_⟩
    · rw [hunit.execAll_eq _ rfl, hcells, hs]
      exact congrArg some hframer
    · have hgroups : ∀ k, regrid k = groupWord rest k := fun k => by
        show ((cells.drop (7 + 16 * k)).take 16).foldl pushCell 0 = _
        rw [hcells, ← List.drop_drop]
        rfl
      have hlen : rest.length = 16 * ds.length + 9 := by
        have := congrArg List.length hrest
        rw [cellsOfWords_mfmWords true false] at this
        simp [clockedCells_length, a1Again] at this
        omega
      simp only [hgroups]
      rw [hunit.reports_eq _ rfl, hs, hcells, cellReports_append, hreport, hframer,
        cellReports_regrid ds.length hlen (cleanCells_regrid 1 hrest)]
      rfl

/-! ### Three A1 syncs on end -/

/-- The cells of the A1 word but the last. -/
def a1Start : List Bool := (cellsOf (0x4489 : Half)).take 15

/-- An A1 word, whatever the framer held before it, leaves it as after an A1. -/
theorem runFramer_a1 (f : Framer) :
    runFramer (framerStep mfmSyncs 4) f (cellsOf (0x4489 : Half)) =
      afterA1 (a1Count (runFramer (framerStep mfmSyncs 4) f a1Start) true) := by
  have hsplit : cellsOf (0x4489 : Half) = a1Start ++ [true] := by decide
  rw [hsplit, runFramer_append]
  generalize hg : runFramer (framerStep mfmSyncs 4) f a1Start = g
  have hsr : pushCell g.sr true = 0x4489 := by
    rw [← hg, runFramer_sr]
    exact foldl_pushCell_cellsOf_half 0x4489 f.sr
  have hmatch : syncMatch mfmSyncs g 0x4489 = some ⟨0x4489, 0xA1, true⟩ := by
    rw [syncMatch_mfm, if_pos rfl]
  show (framerStep mfmSyncs 4 g true).framer = _
  rw [framerStep, hsr, hmatch]
  rfl

/-- The count of A1 syncs after one more. -/
def nextA1 (a : BitVec 2) : BitVec 2 := BitVec.ofNat 2 (min (a.toNat + 1) 3)

theorem runFramer_a1_ne_zero (f : Framer) :
    ∃ a, a ≠ 0 ∧ runFramer (framerStep mfmSyncs 4) f (cellsOf (0x4489 : Half)) = afterA1 a := by
  refine ⟨_, ?_, runFramer_a1 f⟩
  have hnext : ∀ a, nextA1 a ≠ 0 := by decide
  rw [a1Count_a1]
  split
  · exact hnext _
  · decide

/-- An A1 word right after an A1 counts one more, up to three (R203 corner case 3). -/
theorem runFramer_a1_again {a : BitVec 2} (ha : a ≠ 0) :
    runFramer (framerStep mfmSyncs 4) (afterA1 a) (cellsOf (0x4489 : Half)) = afterA1 (nextA1 a) := by
  have hclean : CleanCells mfmSyncs 4 (afterA1 a) (a1Start ++ []) :=
    cleanCells_afterA1 (by decide) (by decide) (by decide) (by decide) (by decide)
  obtain ⟨_, hbyte, _⟩ := runFramer_inByte (inByte_afterA1 a) (by decide) hclean
  have hpos : ∀ a : BitVec 2, a ≠ 0 → 1 ≤ a.toNat := by decide
  rw [runFramer_a1, a1Count_a1, hbyte.a1cnt,
    if_pos ⟨hbyte.locked, BitVec.eq_of_toNat_eq hbyte.phase, hpos a ha⟩, nextA1]

theorem runFramer_three_a1 (f : Framer) :
    runFramer (framerStep mfmSyncs 4) f (cellsOfWords [(0x4489 : Half), 0x4489, 0x4489]) = afterA1 3 := by
  obtain ⟨a, ha, hrun⟩ := runFramer_a1_ne_zero f
  have hnext : ∀ a : BitVec 2, a ≠ 0 → nextA1 a ≠ 0 ∧ nextA1 (nextA1 a) = 3 := by decide
  obtain ⟨hne, hthree⟩ := hnext a ha
  rw [cellsOfWords_cons, cellsOfWords_cons, cellsOfWords_cons, runFramer_append, runFramer_append,
    runFramer_append, hrun, runFramer_a1_again ha, runFramer_a1_again hne, hthree]
  rfl

/-- Settles O26: after the three syncs the report is that of O27 for a stream of one byte. -/
theorem mfmAddressMarkAfterThreeSyncs : Obligations.MfmAddressMarkAfterThreeSyncs := by
  unfold Obligations.MfmAddressMarkAfterThreeSyncs
  intro s d
  obtain ⟨hbyte, hsync⟩ := mfmStreamDecodes { s with mfm := afterA1 3 } 3 d [] rfl
  have hunit := mfm_decodesCells s.params
  have hcells : cellsOfWords [0x4489, 0x4489, 0x4489, (mfmEnc d true).1] =
      cellsOfWords [(0x4489 : Half), 0x4489, 0x4489] ++ cellsOfWords (mfmWords true [d]) := rfl
  have hlast : cellReports (framerStep mfmSyncs 4) (afterA1 3) (cellsOfWords (mfmWords true [d])) =
      reports ((cellsOfWords (mfmWords true [d])).map .mfmDecCell) { s with mfm := afterA1 3 } :=
    ((mfm_decodesCells s.params).reports_eq (s := { s with mfm := afterA1 3 }) _ rfl).symm
  rw [hunit.reports_eq _ rfl, hcells, cellReports_append, runFramer_three_a1, hlast]
  by_cases hd : d.extractLsb' 4 4 = 4
  · rw [if_pos hd, (hsync hd).2]
    exact List.getLast?_concat
  · rw [if_neg hd, hbyte hd, List.map_nil, List.getLast?_concat, if_pos rfl]
    split_ifs <;> rfl

end Sys2Proof.Machine
end

section
/-! PROOFS. Streams of FM-encoded bytes (spec/40_mfm_fm_m2fm.md R221, R222, R225): after a mark no other
mark word occurs, for every clock bit of a data byte is 1. -/

namespace Sys2Proof.Machine

/-! ### The framer on cells without a mark -/

/-- After what the framer `f` holds, `cells` complete no mark word. -/
def NoMarks (f : FmFramer) (cells : List Bool) : Prop :=
  ∀ k : FmMark, ¬ cellsOf (fmMarkRow k).word <:+: (cellsOf f.sr).tail ++ cells

/-- The framer is `n` cells into a byte. -/
structure FmInByte (f : FmFramer) (n : Nat) : Prop where
  locked : f.locked = true
  phase : f.phase.toNat = n

section
variable {f : FmFramer} {b : Bool} {cells : List Bool}

theorem fmFramerStep_sr (f : FmFramer) (b : Bool) : (fmFramerStep f b).framer.sr = pushCell f.sr b := by
  rcases fmFramerStep_cases f b with ⟨_, _, h⟩ | ⟨_, ⟨_, h⟩ | ⟨_, _, h⟩ | ⟨_, _, h⟩⟩ <;> rw [h]

theorem runFmFramer_sr (f : FmFramer) (l : List Bool) :
    (runFramer fmFramerStep f l).sr = l.foldl pushCell f.sr := by
  induction l generalizing f with
  | nil => rfl
  | cons b l ih => rw [runFramer_cons, ih, fmFramerStep_sr, List.foldl_cons]

theorem NoMarks.no_mark (h : NoMarks f (b :: cells)) (k : FmMark) : (fmMarkRow k).word ≠ pushCell f.sr b := by
  intro hw
  refine h k ⟨[], cells, ?_⟩
  rw [hw, cellsOf_pushCell, List.nil_append, List.append_assoc]
  rfl

theorem NoMarks.next (h : NoMarks f (b :: cells)) : NoMarks (fmFramerStep f b).framer cells := by
  intro k hi
  rw [fmFramerStep_sr, cellsOf_pushCell] at hi
  refine h k (hi.trans ?_)
  rw [List.append_cons]
  exact (List.suffix_append_self_iff.2 (List.tail_suffix _)).isInfix

/-- A cell without a mark that is not the last of a byte is taken in silence. -/
theorem fmFramerStep_inByte {n : Nat} (hf : FmInByte f n) (hn : n < 15) (h : NoMarks f (b :: cells)) :
    cellReport (fmFramerStep f b) = [] ∧ FmInByte (fmFramerStep f b).framer (n + 1) := by
  have hp : f.phase ≠ 15 := fun hp => by have := hf.phase; rw [hp] at this; simp at this; omega
  rcases fmFramerStep_cases f b with ⟨k, hk, _⟩ | ⟨_, ⟨hl, _⟩ | ⟨_, hp', _⟩ | ⟨_, _, hs⟩⟩
  · exact absurd hk (h.no_mark k)
  · exact absurd hl (by simp [hf.locked])
  · exact absurd hp' hp
  · rw [hs]
    refine ⟨rfl, rfl, ?_⟩
    have := hf.phase
    show (f.phase + 1).toNat = n + 1
    simp [BitVec.toNat_add]; omega

theorem runFmFramer_inByte {n : Nat} {l : List Bool} (hf : FmInByte f n) (hn : n + l.length ≤ 15)
    (h : NoMarks f (l ++ cells)) :
    cellReports fmFramerStep f l = [] ∧ FmInByte (runFramer fmFramerStep f l) (n + l.length) ∧
      NoMarks (runFramer fmFramerStep f l) cells := by
  induction l generalizing f n with
  | nil => exact ⟨rfl, hf, h⟩
  | cons b l ih =>
    rw [List.length_cons] at hn ⊢
    obtain ⟨hr, hf'⟩ := fmFramerStep_inByte hf (by omega) h
    obtain ⟨hr', hf'', h'⟩ := ih hf' (by omega) h.next
    rw [cellReports, hr, hr', runFramer_cons]
    exact ⟨rfl, by rwa [Nat.add_right_comm] at hf'', h'⟩

/-- The last cell of a word without a mark: a data byte, in error unless every clock bit is 1. -/
theorem fmFramerStep_lastCell (hf : FmInByte f 15) (h : NoMarks f (b :: cells)) :
    cellReport (fmFramerStep f b) =
        [(zext32 (dat (pushCell f.sr b)), if clk (pushCell f.sr b) = 0xFF then 0x01 else 0x11)] ∧
      FmInByte (fmFramerStep f b).framer 0 := by
  have hp : f.phase = 15 := BitVec.eq_of_toNat_eq hf.phase
  rcases fmFramerStep_cases f b with ⟨k, hk, _⟩ | ⟨_, ⟨hl, _⟩ | ⟨_, _, hs⟩ | ⟨_, hp', _⟩⟩
  · exact absurd hk (h.no_mark k)
  · exact absurd hl (by simp [hf.locked])
  · rw [hs, cellReport, pack_byte]
    exact ⟨by simp, rfl, rfl⟩
  · exact absurd hp hp'

/-- The cells of a word from the byte grid on. -/
theorem fmCellReports_word {w : Half} (hf : FmInByte f 0) (h : NoMarks f (cellsOf w ++ cells)) :
    cellReports fmFramerStep f (cellsOf w) = [(zext32 (dat w), if clk w = 0xFF then 0x01 else 0x11)] ∧
      FmInByte (runFramer fmFramerStep f (cellsOf w)) 0 ∧
      NoMarks (runFramer fmFramerStep f (cellsOf w)) cells := by
  have hsplit : (cellsOf w).take 15 ++ [w.getLsbD 0] = cellsOf w := rfl
  rw [← hsplit, List.append_assoc] at h
  obtain ⟨hr, hf', h'⟩ := runFmFramer_inByte hf (by simp) h
  obtain ⟨hlast, hf''⟩ := fmFramerStep_lastCell hf' h'
  have hsr : pushCell (((cellsOf w).take 15).foldl pushCell f.sr) (w.getLsbD 0) = w :=
    foldl_pushCell_cellsOf_half w f.sr
  rw [runFmFramer_sr, hsr] at hlast
  rw [← hsplit, cellReports_append, runFramer_append, hr]
  exact ⟨by rw [cellReports, hlast]; rfl, hf'', h'.next⟩

end

/-! ### Encoded bytes after a mark -/

theorem cellsOfWords_fmEnc (pd pc : Bool) (ds : List Byte) :
    cellsOfWords (ds.map fmEnc) = clockedCells fmClock pd pc (ds.flatMap cellsOf) := by
  induction ds generalizing pd pc with
  | nil => rfl
  | cons d ds ih =>
    rw [List.map_cons, cellsOfWords_cons, cellsOf_fmEnc d pd pc, List.flatMap_cons, clockedCells_append, ih]

/-- No mark word stands in FM-encoded bytes, or across their border to a mark. -/
theorem noMarks_fmEnc (k : FmMark) (ds : List Byte) :
    NoMarks ⟨(fmMarkRow k).word, 0, true⟩ (cellsOfWords (ds.map fmEnc)) := by
  have hinside : ∀ m, ¬ WindowFits fmClock (cellsOf (fmMarkRow m).word) := fun m => by cases m <;> decide
  have hborder : ∀ m : FmMark, ∀ j ≤ 16,
      (cellsOf (fmMarkRow m).word).take j <:+ (cellsOf (fmMarkRow k).word).tail →
      clockFits fmClock false false ((cellsOf (fmMarkRow m).word).drop j) = false := fun m => by
    cases m <;> cases k <;> decide
  rw [cellsOfWords_fmEnc false false]
  intro m hi
  rcases infix_append_cases hi with hi | hi | ⟨j, hj, hpre, hsuf⟩
  · exact absurd hi.length_le (by simp)
  · exact hinside m (windowFits_of_infix hi)
  · have := clockFits_of_prefix hsuf
    rw [hborder m j hj hpre] at this
    cases this

theorem fmCellReports_fmEnc {f : FmFramer} (ds : List Byte) (hf : FmInByte f 0)
    (h : NoMarks f (cellsOfWords (ds.map fmEnc))) :
    cellReports fmFramerStep f (cellsOfWords (ds.map fmEnc)) = ds.map fun x => (x.setWidth 32, 0x01) := by
  induction ds generalizing f with
  | nil => rfl
  | cons d ds ih =>
    rw [List.map_cons, cellsOfWords_cons] at h ⊢
    obtain ⟨hr, hf', h'⟩ := fmCellReports_word hf h
    obtain ⟨hdat, hclk⟩ := dat_clk_fmEnc d
    rw [cellReports_append, hr, ih hf' h', hdat, if_pos hclk]
    rfl

/-- Settles O28: the framer is on the byte grid after a mark, and no mark follows. -/
theorem fmStreamDecodes : Obligations.FmStreamDecodes := by
  unfold Obligations.FmStreamDecodes
  intro s k ds hs
  rw [(fm_decodesCells s.params).reports_eq _ rfl, hs]
  exact fmCellReports_fmEnc ds ⟨rfl, rfl⟩ (noMarks_fmEnc k ds)

end Sys2Proof.Machine
end

section
/-! PROOFS. Streams of M2FM-encoded bytes (spec/40_mfm_fm_m2fm.md R230, R231): their run limits, and what
the framer reports of them where no word of M2FM_SYNC occurs. -/

namespace Sys2Proof.Machine

open Sys2Proof.Config

/-! ### The cells of M2FM-encoded bytes -/

theorem cellsOfWords_m2fmWords (pd pc : Bool) (ds : List Byte) :
    cellsOfWords (m2fmWords pd pc ds) = clockedCells m2fmClock pd pc (ds.flatMap cellsOf) := by
  induction ds generalizing pd pc with
  | nil => rfl
  | cons d ds ih =>
    rw [m2fmWords, cellsOfWords_cons, cellsOf_m2fmEnc d pd pc, m2fmEnc_pd, m2fmEnc_pc, List.flatMap_cons,
      clockedCells_append, ih]
    rfl

theorem map_dat_m2fmWords (pd pc : Bool) (ds : List Byte) : (m2fmWords pd pc ds).map dat = ds := by
  induction ds generalizing pd pc with
  | nil => rfl
  | cons d ds ih => rw [m2fmWords, List.map_cons, ih, dat_m2fmEnc]

theorem m2fm_no_adjacent_ones : ¬ WindowFits m2fmClock [true, true] := by decide

theorem m2fm_no_five_zeros : ¬ WindowFits m2fmClock (List.replicate 5 false) := by decide

/-- R231 corner case 1. -/
theorem m2fmEncodedRuns (pd pc : Bool) (ds : List Byte) :
    ¬ [true, true] <:+: cellsOfWords (m2fmWords pd pc ds) ∧
      ¬ List.replicate 5 false <:+: cellsOfWords (m2fmWords pd pc ds) := by
  rw [cellsOfWords_m2fmWords]
  exact ⟨fun h => m2fm_no_adjacent_ones (windowFits_of_infix h),
    fun h => m2fm_no_five_zeros (windowFits_of_infix h)⟩

/-! ### After the cells a framer holds -/

/-- The border to the framer's last cell: a 1 there is a data bit, and no clock bit follows it. -/
theorem m2fm_no_adjacent_ones_after (pd pc : Bool) (ds : List Byte) :
    ¬ [true, true] <:+: pd :: cellsOfWords (m2fmWords pd pc ds) := by
  intro h
  rcases List.infix_cons_iff.1 h with h | h
  · obtain ⟨rfl, h⟩ := List.cons_prefix_cons.1 h
    rw [cellsOfWords_m2fmWords] at h
    have hfit := clockFits_of_prefix h
    have hno : ∀ pc, clockFits m2fmClock true pc [true] = false := by decide
    rw [hno] at hfit
    cases hfit
  · exact (m2fmEncodedRuns pd pc ds).1 h

/-- The border to the 0 cells a framer has counted: three of them are followed by at most one more. -/
theorem m2fm_no_five_zeros_after {z : Nat} {pd pc : Bool} (hz : z ≤ 3) (hpd : 1 ≤ z → pd = false)
    (hpc : 2 ≤ z → pc = false) (ds : List Byte) :
    ¬ List.replicate 5 false <:+: List.replicate z false ++ cellsOfWords (m2fmWords pd pc ds) := by
  intro h
  rcases infix_append_cases h with h | h | ⟨k, _, hpre, hsuf⟩
  · have := h.length_le
    simp at this
    omega
  · exact (m2fmEncodedRuns pd pc ds).2 h
  · have hk : k ≤ z := by
      have := hpre.length_le
      simp at this
      omega
    have hno : ∀ k ≤ 3, ∀ pd pc, (1 ≤ k → pd = false) → (2 ≤ k → pc = false) →
        clockFits m2fmClock pd pc ((List.replicate 5 false).drop k) = false := by decide
    rw [cellsOfWords_m2fmWords] at hsuf
    have hfit := clockFits_of_prefix hsuf
    rw [hno k (hk.trans hz) pd pc (fun h => hpd (h.trans hk)) (fun h => hpc (h.trans hk))] at hfit
    cases hfit

/-- Bytes encoded after the framer's last two cells are clean if they complete no sync word. -/
theorem cleanCells_m2fmWords {syncs : List SyncEntry} {f : Framer} {ds : List Byte} (hf : FramerOk f)
    (hz : f.zrun.toNat ≤ 3)
    (hno : ∀ e ∈ syncs, ¬ cellsOf e.word <:+: (cellsOf f.sr).tail ++
      cellsOfWords (m2fmWords (f.sr.getLsbD 0) (f.sr.getLsbD 1) ds)) :
    CleanCells syncs 5 f (cellsOfWords (m2fmWords (f.sr.getLsbD 0) (f.sr.getLsbD 1) ds)) where
  apart := by
    rw [← hf.lastCell]
    exact m2fm_no_adjacent_ones_after _ _ ds
  short := m2fm_no_five_zeros_after hz (hf.zeros 0) (hf.zeros 1) ds
  noA1 e he _ := hno e he

/-- Settles O29: the cells are clean and no word of them is a sync word, so the framer reports them
word by word. -/
theorem m2fmStreamDecodes : Obligations.M2fmStreamDecodes := by
  unfold Obligations.M2fmStreamDecodes
  refine ⟨fun s d ds hok hl hp he hz hno => ?_, m2fmEncodedRuns, by decide⟩
  have hwords : ∀ w ∈ m2fmWords (s.m2.sr.getLsbD 0) (s.m2.sr.getLsbD 1) (d :: ds),
      ∀ e ∈ s.params.m2fmSync, e.word ≠ w := by
    rintro w hw e he rfl
    exact hno e he ((cellsOf_infix_cellsOfWords hw).trans (List.suffix_append _ _).isInfix)
  obtain ⟨hfirst, hrest⟩ := List.forall_mem_cons.1 hwords
  have hstream := cellReports_stream (m2fmEnc d _ _).word _ ⟨hl, he, congrArg _ hp, rfl⟩
    (cleanCells_m2fmWords hok hz hno)
  rw [wordReport_of_no_sync hfirst, map_wordReport_of_no_sync hrest, map_dat_m2fmWords,
    dat_m2fmEnc] at hstream
  rw [(m2fm_decodesCells s.params).reports_eq _ rfl]
  exact hstream

end Sys2Proof.Machine
end

section
/-! PROOFS. The codes and groups of GCR-CBM (spec/41_gcr_cbm.md R260 to R265): what the decoding table says
of a code, nibble or not, and from it what a group of two codes decodes to. -/

namespace Sys2Proof.Machine

/-! ### Codes (R260, R261) -/

theorem gcr5Dec_gcr5Enc (n : BitVec 4) : gcr5Dec (gcr5Enc n) = n.setWidth 5 := by
  revert n; decide

/-- R261: bits 3:0 of a decoded code are the nibble, and bit 4 is clear. -/
theorem gcr5Dec_gcr5Enc_fields (n : BitVec 4) :
    (gcr5Dec (gcr5Enc n)).extractLsb' 0 4 = n ∧ (gcr5Dec (gcr5Enc n)).getLsbD 4 = false := by
  revert n; decide

/-- A code that is no nibble's decodes to 0x10. -/
theorem gcr5Dec_invalid {c : BitVec 5} (h : ∀ n, gcr5Enc n ≠ c) : gcr5Dec c = 0x10 := by
  revert c; decide

/-- R261: the codes that are no nibble's. -/
theorem gcr5Enc_ne_iff (c : BitVec 5) :
    (∀ n, gcr5Enc n ≠ c) ↔ c.toNat ≤ 8 ∨ c.toNat ∈ [0x0C, 0x10, 0x11, 0x14, 0x18, 0x1C, 0x1F] := by
  revert c; decide

theorem emit_decErr (e : Bool) (s : State) :
    emit { decErr := e } s =
      { s with
        evt := if e then 0x10 else 0
        status := if e then s.status ||| 0x20 else s.status } := by
  rw [emit, pack_decErr_only]; rfl

theorem exec_gcr5DecCode (c : BitVec 5) (s : State) :
    exec (.gcr5DecCode c) s =
      .next
        { s with
          evt := if (gcr5Dec c).getLsbD 4 then 0x10 else 0
          status := if (gcr5Dec c).getLsbD 4 then s.status ||| 0x20 else s.status
          dout0 := (gcr5Dec c).setWidth 32 } := by
  simp only [exec, execGcr5DecCode, emit_decErr, zext32]

/-- Settles O32: a code is a nibble's or invalid. -/
theorem gcr5CodeCommands : Obligations.Gcr5CodeCommands := by
  unfold Obligations.Gcr5CodeCommands
  refine fun s => ⟨fun n => ⟨?_, ?_⟩, fun c => ⟨gcr5Enc_ne_iff c, fun hc => ?_⟩⟩
  · have htable : ∀ n, zext32 (gcr5Enc n) =
        ([0x0A, 0x0B, 0x12, 0x13, 0x0E, 0x0F, 0x16, 0x17,
          0x09, 0x19, 0x1A, 0x1B, 0x0D, 0x1D, 0x1E, 0x15] : List Word).getD n.toNat 0 := by decide
    rw [← htable n]
    rfl
  · rw [exec_gcr5DecCode, (gcr5Dec_gcr5Enc_fields n).2, gcr5Dec_gcr5Enc]
    rfl
  · rw [exec_gcr5DecCode, gcr5Dec_invalid hc]
    rfl

/-! ### Groups (R264, R265) -/

theorem gcr5EncByte_halves (d : Byte) :
    (gcr5EncByte d).extractLsb' 5 5 = gcr5Enc (d.extractLsb' 4 4) ∧
      (gcr5EncByte d).extractLsb' 0 5 = gcr5Enc (d.extractLsb' 0 4) := by
  unfold gcr5EncByte
  exact ⟨BitVec.extractLsb'_append_eq_left, BitVec.extractLsb'_append_eq_right⟩

/-- A group is a byte's if both of its halves are nibbles' codes. -/
theorem gcr5EncByte_append {c : BitVec 10} {hi lo : BitVec 4} (hhi : gcr5Enc hi = c.extractLsb' 5 5)
    (hlo : gcr5Enc lo = c.extractLsb' 0 5) : gcr5EncByte (hi ++ lo) = c := by
  have hall : c.extractLsb' 5 5 ++ c.extractLsb' 0 5 = c.extractLsb' 0 10 :=
    BitVec.extractLsb'_append_extractLsb'_eq_extractLsb' rfl
  rw [gcr5EncByte, BitVec.extractLsb'_append_eq_left, BitVec.extractLsb'_append_eq_right, hhi, hlo]
  exact hall.trans BitVec.extractLsb'_eq_self

/-- What a half of a group decodes to: its nibble, or 0 and an error. -/
theorem gcr5Dec_half (c : BitVec 5) :
    (gcr5Enc ((gcr5Dec c).extractLsb' 0 4) = c ∧ (gcr5Dec c).getLsbD 4 = false) ∨
      ((gcr5Dec c).extractLsb' 0 4 = 0 ∧ (∀ n, gcr5Enc n ≠ c) ∧ (gcr5Dec c).getLsbD 4 = true) := by
  by_cases hc : ∀ n, gcr5Enc n ≠ c
  · rw [gcr5Dec_invalid hc]
    exact .inr ⟨rfl, hc, rfl⟩
  · push Not at hc
    obtain ⟨n, rfl⟩ := hc
    obtain ⟨hnibble, hvalid⟩ := gcr5Dec_gcr5Enc_fields n
    exact .inl ⟨by rw [hnibble], hvalid⟩

theorem gcr5Word_gcr5EncByte (d : Byte) : gcr5Word (gcr5EncByte d) = (d, false) := by
  obtain ⟨hhi, hlo⟩ := gcr5EncByte_halves d
  have hall : d.extractLsb' 4 4 ++ d.extractLsb' 0 4 = d.extractLsb' 0 8 :=
    BitVec.extractLsb'_append_extractLsb'_eq_extractLsb' rfl
  simp only [gcr5Word, hhi, hlo, gcr5Dec_gcr5Enc_fields, Bool.or_self]
  exact congrArg (·, false) (hall.trans BitVec.extractLsb'_eq_self)

theorem exec_gcr5DecWord (c : BitVec 10) (s : State) :
    exec (.gcr5DecWord c) s =
      .next
        { s with
          evt := if (gcr5Word c).2 then 0x10 else 0
          status := if (gcr5Word c).2 then s.status ||| 0x20 else s.status
          dout0 := (gcr5Word c).1.setWidth 32 } := by
  simp only [exec, execGcr5DecWord, emit_decErr, zext32]

/-- Settles O33: each half of a group is a nibble's code or invalid. -/
theorem gcr5GroupCommands : Obligations.Gcr5GroupCommands := by
  unfold Obligations.Gcr5GroupCommands
  refine fun s => ⟨fun d => ⟨?_, ?_⟩, fun c hc => ?_⟩
  · rw [← BitVec.setWidth_append_eq_shiftLeft_setWidth_or]
    rfl
  · rw [exec_gcr5DecWord, gcr5Word_gcr5EncByte]
    rfl
  · have hhi := gcr5Dec_half (c.extractLsb' 5 5)
    have hlo := gcr5Dec_half (c.extractLsb' 0 5)
    have herr : (gcr5Word c).2 = true := by
      rcases hhi with ⟨hhi, _⟩ | ⟨_, _, he⟩
      · rcases hlo with ⟨hlo, _⟩ | ⟨_, _, he⟩
        · exact absurd (gcr5EncByte_append hhi hlo) (hc _)
        · simp [gcr5Word, he]
      · simp [gcr5Word, he]
    refine ⟨_, _, ?_, hhi.imp And.left fun ⟨hzero, hno, _⟩ => ⟨hzero, hno⟩,
      hlo.imp And.left fun ⟨hzero, hno, _⟩ => ⟨hzero, hno⟩⟩
    rw [exec_gcr5DecWord, herr]
    rfl

end Sys2Proof.Machine
end

section
/-! PROOFS. The cells of GCR-CBM groups (spec/41_gcr_cbm.md R266): each code is bounded in the runs it
begins with, ends with and holds, and so are the runs of any codes sent one after the other. -/

namespace Sys2Proof.Machine

/-! ### Runs in blocks of cells -/

/-- Each block begins with at most `p` cells `b`, ends with at most `q`, and holds at most `p + q` in a row;
no block is so short that a run could pass over all of it. -/
structure RunsBounded {α : Type} (block : α → List Bool) (b : Bool) (p q : Nat) : Prop where
  long : ∀ x, p < (block x).length
  starts : ∀ x, ¬ List.replicate (p + 1) b <+: block x
  ends : ∀ x, ¬ List.replicate (q + 1) b <:+ block x
  inside : ∀ x, ¬ List.replicate (p + q + 1) b <:+: block x

section
variable {α : Type} {block : α → List Bool} {b : Bool} {p q : Nat}

theorem RunsBounded.flatMap_starts (h : RunsBounded block b p q) (xs : List α) :
    ¬ List.replicate (p + 1) b <+: xs.flatMap block := by
  intro hp
  cases xs with
  | nil => simpa using hp.length_le
  | cons x xs =>
    exact h.starts x (List.prefix_of_prefix_length_le hp (List.prefix_append _ _) (by simpa using h.long x))

/-- Blocks sent one after the other hold no longer run than one block may. -/
theorem RunsBounded.flatMap (h : RunsBounded block b p q) (xs : List α) :
    ¬ List.replicate (p + q + 1) b <:+: xs.flatMap block := by
  induction xs with
  | nil => exact fun hi => by simpa using hi.length_le
  | cons x xs ih =>
    intro hi
    rcases infix_append_cases hi with hi | hi | ⟨k, hk, hend, hstart⟩
    · exact h.inside x hi
    · exact ih hi
    · rw [List.take_replicate] at hend
      rw [List.drop_replicate] at hstart
      rw [List.length_replicate] at hk
      by_cases hkq : k ≤ q
      · refine h.flatMap_starts xs (List.IsPrefix.trans (List.prefix_replicate_iff.2 ?_) hstart)
        exact ⟨by simp; omega, by simp⟩
      · refine h.ends x (List.IsSuffix.trans (List.suffix_replicate_iff.2 ?_) hend)
        exact ⟨by simp; omega, by simp⟩

end

/-! ### Codes one after the other -/

theorem cellsOf_append {v w : Nat} (x : BitVec v) (y : BitVec w) :
    cellsOf (x ++ y) = cellsOf x ++ cellsOf y := by
  refine List.ext_getElem (by simp) fun k hk _ => ?_
  rw [cellsOf_length] at hk
  rw [cellsOf_getElem, BitVec.getLsbD_append, List.getElem_append]
  by_cases hx : k < v
  · simp only [cellsOf_length, hx, dif_pos, cellsOf_getElem]
    rw [if_neg (by omega)]
    congr 1; omega
  · simp only [cellsOf_length, hx, dif_neg, cellsOf_getElem, not_false_eq_true]
    rw [if_pos (by omega)]
    congr 1; omega

/-- The nibbles of a byte string in the order they are sent (R264). -/
def nibbles (ds : List Byte) : List (BitVec 4) :=
  ds.flatMap fun d => [d.extractLsb' 4 4, d.extractLsb' 0 4]

theorem cellsOfWords_gcr5EncByte (ds : List Byte) :
    cellsOfWords (ds.map gcr5EncByte) = (nibbles ds).flatMap fun n => cellsOf (gcr5Enc n) := by
  induction ds with
  | nil => rfl
  | cons d ds ih =>
    rw [List.map_cons, cellsOfWords_cons, ih, gcr5EncByte, cellsOf_append, List.append_assoc]
    rfl

theorem gcr5_onesBounded : RunsBounded (fun n => cellsOf (gcr5Enc n)) true 4 4 := by
  constructor <;> decide

theorem gcr5_zerosBounded : RunsBounded (fun n => cellsOf (gcr5Enc n)) false 1 1 := by
  constructor <;> decide

theorem gcr5_no_nine_ones (ds : List Byte) :
    ¬ List.replicate 9 true <:+: cellsOfWords (ds.map gcr5EncByte) := by
  rw [cellsOfWords_gcr5EncByte]
  exact gcr5_onesBounded.flatMap _

theorem gcr5_no_ten_ones (ds : List Byte) :
    ¬ List.replicate 10 true <:+: cellsOfWords (ds.map gcr5EncByte) := fun h =>
  gcr5_no_nine_ones ds ((List.suffix_cons true (List.replicate 9 true)).isInfix.trans h)

theorem gcr5_no_three_zeros (ds : List Byte) :
    ¬ List.replicate 3 false <:+: cellsOfWords (ds.map gcr5EncByte) := by
  rw [cellsOfWords_gcr5EncByte]
  exact gcr5_zerosBounded.flatMap _

/-- R266: the nibbles whose code begins with a 0 cell. -/
theorem gcr5Enc_firstCell_iff (n : BitVec 4) :
    (gcr5Enc n).getLsbD 4 = false ↔ n.toNat ∈ [0x0, 0x1, 0x4, 0x5, 0x8, 0xC] := by
  revert n; decide

/-- Settles O30, by the runs each code begins with, ends with and holds. -/
theorem gcr5EncodedRuns : Obligations.Gcr5EncodedRuns := by
  unfold Obligations.Gcr5EncodedRuns
  exact ⟨fun ds => ⟨gcr5_no_nine_ones ds, gcr5_no_ten_ones ds, gcr5_no_three_zeros ds⟩,
    gcr5Enc_firstCell_iff⟩

end Sys2Proof.Machine
end

section
/-! PROOFS. The GCR-CBM framer (spec/41_gcr_cbm.md R267): the effect of one cell, and what the host is
shown of a stream of groups in which no sync occurs. -/

namespace Sys2Proof.Machine

/-! ### One cell -/

theorem pack_syncDet_only (e : Bool) : ({ syncDet := e } : Events).pack = if e then 0x02 else 0 := by
  cases e <;> decide

theorem emit_gcr5Sync (m : Gcr5Mode) (s : State) :
    emit { syncDet := m != .sync } s = { s with evt := if m = .sync then 0 else 0x02 } := by
  rw [emit, pack_syncDet_only]
  cases m <;> rfl

theorem emit_byte (e : Bool) (s : State) :
    emit { byteReady := true, decErr := e } s =
      { s with
        evt := if e then 0x11 else 0x01
        status := if e then s.status ||| 0x20 else s.status } := by
  rw [emit, pack_byte]; rfl

/-- Settles O23, by the cases of a cell in the framer. -/
theorem gcr5CellRule : Obligations.Gcr5CellRule := by
  unfold Obligations.Gcr5CellRule
  intro b s
  simp only [← pushCell_eq_ofNat, ← oneRun_toNat, BitVec.ofNat_toNat, BitVec.setWidth_eq]
  simp only [exec, execGcr5DecCell]
  rcases gcr5FramerStep_cases s.g5 b with
    ⟨hb, hrun, h⟩ | ⟨hno, ⟨hm, h⟩ | ⟨hm, h⟩ | ⟨hm, hc, h⟩ | ⟨hm, hc, h⟩⟩ <;> rw [h] <;> dsimp only
  · rw [if_pos ⟨hb, hrun⟩, emit_gcr5Sync]
  · rw [if_neg hno, if_pos hm, emit_nothing]
  · rw [if_neg hno, hm, if_neg (by decide), if_pos rfl, emit_nothing]
  · rw [if_neg hno, hm, if_neg (by decide), if_neg (by decide), if_pos (by omega), emit_byte]
    rfl
  · rw [if_neg hno, hm, if_neg (by decide), if_neg (by decide), if_neg (by omega), emit_nothing]

end Sys2Proof.Machine
end

section
/-! PROOFS. Streams of GCR-CBM groups (spec/41_gcr_cbm.md R266, R267): groups in which no sync occurs are
shown to the host one by one, and the first group may end a sync if it begins with a 0 cell. -/

namespace Sys2Proof.Machine

/-! ### One command at the head of a run (R492) -/

section
variable {i : Instr} {s t : State}

theorem reports_cons_of_evt_zero (h : exec i s = .next t) (ht : t.evt = 0) (is : List Instr) :
    reports (i :: is) s = reports is t := by
  simp [reports, execTrace_cons h, ht]

theorem reports_cons_of_evt_ne_zero (h : exec i s = .next t) (ht : t.evt ≠ 0) (is : List Instr) :
    reports (i :: is) s = (t.dout0, t.evt) :: reports is t := by
  have hshown : (t.evt != 0) = true := bne_iff_ne.2 ht
  rw [reports, execTrace_cons h, List.filter_cons, if_pos hshown]
  rfl

theorem reports_cons_congr (h : exec i s = exec i t) (is : List Instr) :
    reports (i :: is) s = reports (i :: is) t := by
  simp only [reports, execTrace, h]

end

/-! ### Cells pushed into a register of any width -/

theorem foldl_pushCell_getLsbD {w i : Nat} (l : List Bool) (sr : BitVec w) (hi : i < w) :
    (l.foldl pushCell sr).getLsbD i =
      if h : i < l.length then l[l.length - 1 - i] else sr.getLsbD (i - l.length) := by
  induction l generalizing sr with
  | nil => rfl
  | cons b l ih =>
    rw [List.foldl_cons, ih]
    simp only [List.length_cons]
    rcases lt_trichotomy i l.length with h | h | h
    · rw [dif_pos h, dif_pos (by omega)]
      simp only [show l.length + 1 - 1 - i = l.length - 1 - i + 1 by omega, List.getElem_cons_succ]
    · subst h
      simp [pushCell_getLsbD _ _ _ (Nat.zero_lt_of_lt hi)]
    · rw [dif_neg (by omega), dif_neg (by omega), pushCell_getLsbD _ _ _ (by omega), if_neg (by omega),
        Nat.sub_sub]

theorem foldl_pushCell_cellsOf {w : Nat} (v sr : BitVec w) : (cellsOf v).foldl pushCell sr = v := by
  apply BitVec.eq_of_getLsbD_eq
  intro i hi
  rw [foldl_pushCell_getLsbD _ _ hi, dif_pos (by simpa using hi), cellsOf_getElem, cellsOf_length]
  congr 1
  omega

/-! ### Inside a group -/

/-- The framer is `n` cells into a group, and after the run of 1 cells it has counted, `cells` complete no
sync. -/
structure Gcr5InGroup (f : Gcr5Framer) (n : Nat) (cells : List Bool) : Prop where
  mode : f.mode = .data
  count : f.cnt.toNat = n
  noSync : ¬ List.replicate 10 true <:+: List.replicate f.ones.toNat true ++ cells

/-- The run of 1 cells that the framer counts is a part of the cells it was sent. -/
theorem replicate_oneRun_suffix (o : BitVec 8) (b : Bool) :
    List.replicate (oneRun o b).toNat true <:+ List.replicate o.toNat true ++ [b] := by
  cases b with
  | false => exact List.nil_suffix
  | true =>
    rw [← List.replicate_succ', List.suffix_replicate_iff, List.length_replicate, oneRun_toNat]
    exact ⟨min_le_left _ _, rfl⟩

section
variable {s : State} {b : Bool} {n : Nat} {cells : List Bool}

theorem Gcr5InGroup.not_sync {f : Gcr5Framer} (h : Gcr5InGroup f n (b :: cells)) :
    ¬(b = true ∧ 10 ≤ (oneRun f.ones b).toNat) := by
  rintro ⟨_, hrun⟩
  have hten : List.replicate 10 true <:+ List.replicate (oneRun f.ones b).toNat true :=
    List.suffix_replicate_iff.2 ⟨by simpa using hrun, rfl⟩
  have hheld := (hten.trans (replicate_oneRun_suffix f.ones b)).isInfix
  exact h.noSync (by rw [List.append_cons]; exact hheld.trans (List.prefix_append _ cells).isInfix)

theorem Gcr5InGroup.noSync_next {f : Gcr5Framer} (h : Gcr5InGroup f n (b :: cells)) :
    ¬ List.replicate 10 true <:+: List.replicate (oneRun f.ones b).toNat true ++ cells := by
  intro hi
  refine h.noSync (hi.trans ?_)
  rw [List.append_cons]
  exact (List.suffix_append_self_iff.2 (replicate_oneRun_suffix f.ones b)).isInfix

/-- Of the cases of a cell in the framer, the two inside a group are left. -/
theorem Gcr5InGroup.framerStep {f : Gcr5Framer} (h : Gcr5InGroup f n (b :: cells)) :
    (n = 9 ∧ gcr5FramerStep f b =
      ⟨⟨0, 0, .data, oneRun f.ones b⟩, some ((gcr5Word (pushCell f.acc b)).1, pushCell f.acc b),
        { byteReady := true, decErr := (gcr5Word (pushCell f.acc b)).2 }⟩) ∨
    (n ≠ 9 ∧ gcr5FramerStep f b =
      ⟨⟨pushCell f.acc b, f.cnt + 1, .data, oneRun f.ones b⟩, none, {}⟩) := by
  rcases gcr5FramerStep_cases f b with
    ⟨hb, hrun, _⟩ | ⟨_, ⟨hm, _⟩ | ⟨hm, _⟩ | ⟨_, hc, hs⟩ | ⟨_, hc, hs⟩⟩
  · exact absurd ⟨hb, hrun⟩ h.not_sync
  · cases h.mode.symm.trans hm
  · cases h.mode.symm.trans hm
  · exact .inl ⟨h.count ▸ hc, hs⟩
  · exact .inr ⟨h.count ▸ hc, hs⟩

/-- A cell that is not the last of a group is taken in silence. -/
theorem Gcr5InGroup.exec_cell (h : Gcr5InGroup s.g5 n (b :: cells)) (hn : n < 9) :
    exec (.gcr5DecCell b) s =
      .next
        { s with
          evt := 0
          g5 := ⟨pushCell s.g5.acc b, s.g5.cnt + 1, .data, oneRun s.g5.ones b⟩ } := by
  rcases h.framerStep with ⟨rfl, _⟩ | ⟨_, hs⟩
  · omega
  · simp only [exec, execGcr5DecCell, hs, emit_nothing]

theorem Gcr5InGroup.next (h : Gcr5InGroup s.g5 n (b :: cells)) (hn : n < 9) :
    Gcr5InGroup ⟨pushCell s.g5.acc b, s.g5.cnt + 1, .data, oneRun s.g5.ones b⟩ (n + 1) cells := by
  refine ⟨rfl, ?_, h.noSync_next⟩
  have hcount := h.count
  show (s.g5.cnt + 1).toNat = n + 1
  simp [BitVec.toNat_add]
  omega

theorem Gcr5InGroup.reports_cells {l : List Bool} (h : Gcr5InGroup s.g5 n (l ++ cells))
    (hn : n + l.length ≤ 9) (is : List Instr) :
    ∃ t, reports (l.map .gcr5DecCell ++ is) s = reports is t ∧
      Gcr5InGroup t.g5 (n + l.length) cells ∧ t.g5.acc = l.foldl pushCell s.g5.acc := by
  induction l generalizing s n with
  | nil => exact ⟨s, rfl, h, rfl⟩
  | cons b l ih =>
    rw [List.length_cons] at hn ⊢
    obtain ⟨t, hr, ht, hacc⟩ := ih (s := { s with evt := 0, g5 := _ }) (h.next (by omega)) (by omega)
    refine ⟨t, ?_, by rwa [Nat.add_right_comm] at ht, hacc⟩
    rw [List.map_cons, List.cons_append, reports_cons_of_evt_zero (h.exec_cell (by omega)) rfl, hr]

/-- The last cell of a group shows the host what the group decodes to (R265). -/
theorem Gcr5InGroup.exec_lastCell (h : Gcr5InGroup s.g5 9 (b :: cells)) :
    ∃ t, exec (.gcr5DecCell b) s = .next t ∧ t.dout0 = (gcr5Word (pushCell s.g5.acc b)).1.setWidth 32 ∧
      t.evt = (if (gcr5Word (pushCell s.g5.acc b)).2 then 0x11 else 0x01) ∧ Gcr5InGroup t.g5 0 cells := by
  rcases h.framerStep with ⟨_, hs⟩ | ⟨hn, _⟩
  · simp only [exec, execGcr5DecCell, hs, emit_byte]
    exact ⟨_, rfl, rfl, rfl, rfl, rfl, h.noSync_next⟩
  · exact absurd rfl hn

/-- A group from the border of one on. -/
theorem Gcr5InGroup.reports_group {c : BitVec 10} (h : Gcr5InGroup s.g5 0 (cellsOf c ++ cells))
    (is : List Instr) :
    ∃ t, reports ((cellsOf c).map .gcr5DecCell ++ is) s =
        ((gcr5Word c).1.setWidth 32, if (gcr5Word c).2 then 0x11 else 0x01) :: reports is t ∧
      Gcr5InGroup t.g5 0 cells := by
  have hsplit : (cellsOf c).take 9 ++ [c.getLsbD 0] = cellsOf c := rfl
  rw [← hsplit, List.append_assoc] at h
  obtain ⟨t, hr, ht, hacc⟩ := h.reports_cells (by simp) (.gcr5DecCell (c.getLsbD 0) :: is)
  obtain ⟨u, he, hout, hevt, hu⟩ := ht.exec_lastCell
  have hword : pushCell t.g5.acc (c.getLsbD 0) = c := hacc ▸ foldl_pushCell_cellsOf c s.g5.acc
  have hshown : u.evt ≠ 0 := by rw [hevt]; split <;> decide
  refine ⟨u, ?_, hu⟩
  rw [hword] at hout hevt
  rw [← hout, ← hevt, ← reports_cons_of_evt_ne_zero he hshown is, ← hr, ← hsplit, List.map_append,
    List.append_assoc]
  rfl

end

/-! ### Encoded bytes after a sync -/

theorem Gcr5InGroup.reports_bytes {s : State} (ds : List Byte)
    (h : Gcr5InGroup s.g5 0 (cellsOfWords (ds.map gcr5EncByte))) :
    reports ((cellsOfWords (ds.map gcr5EncByte)).map .gcr5DecCell) s =
      ds.map fun x => (x.setWidth 32, 0x01) := by
  induction ds generalizing s with
  | nil => rfl
  | cons d ds ih =>
    rw [List.map_cons, cellsOfWords_cons] at h ⊢
    obtain ⟨t, hr, ht⟩ := h.reports_group ((cellsOfWords (ds.map gcr5EncByte)).map .gcr5DecCell)
    rw [List.map_append, hr, ih ht, gcr5Word_gcr5EncByte]
    rfl

/-- R267 corner case 3: the 0 cell that ends a sync is the first of a group. -/
theorem exec_gcr5DecCell_endOfSync {s : State} {o : BitVec 8} (hs : s.g5 = ⟨0, 0, .sync, o⟩) :
    exec (.gcr5DecCell false) s = exec (.gcr5DecCell false) { s with g5 := ⟨0, 0, .data, 0⟩ } := by
  have hstep : gcr5FramerStep ⟨0, 0, .sync, o⟩ false = gcr5FramerStep ⟨0, 0, .data, 0⟩ false := rfl
  simp only [exec, execGcr5DecCell, hs, hstep]

/-- The first cell of a byte's group is the first of its high nibble's code. -/
theorem cellsOf_gcr5EncByte_eq_cons (d : Byte) :
    cellsOf (gcr5EncByte d) =
      (gcr5Enc (d.extractLsb' 4 4)).getLsbD 4 :: (cellsOf (gcr5EncByte d)).tail := by
  rw [gcr5EncByte, cellsOf_append]
  rfl

/-- Settles O31: the first 0 cell begins a group, and the groups hold no sync. -/
theorem gcr5StreamDecodes : Obligations.Gcr5StreamDecodes := by
  unfold Obligations.Gcr5StreamDecodes
  intro s o d ds hs _ hd
  have hgroup : Gcr5InGroup ⟨0, 0, .data, 0⟩ 0 (cellsOfWords ((d :: ds).map gcr5EncByte)) :=
    ⟨rfl, rfl, gcr5_no_ten_ones (d :: ds)⟩
  rw [← Gcr5InGroup.reports_bytes (s := { s with g5 := ⟨0, 0, .data, 0⟩ }) (d :: ds) hgroup, List.map_cons,
    cellsOfWords_cons, cellsOf_gcr5EncByte_eq_cons, (gcr5Enc_firstCell_iff _).2 hd]
  exact reports_cons_congr (exec_gcr5DecCell_endOfSync hs) _

end Sys2Proof.Machine
end

section
/-! PROOFS. Apple disk bytes (spec/42_gcr_apple.md R290 to R295): the two tables hold the bytes their rules
describe, and as each is in ascending order, a byte's index in it is the only one. -/

namespace Sys2Proof.Machine

/-! ### The tables (R290, R291) -/

theorem a62Table_ascending : a62Table.Pairwise (· < ·) := by decide

theorem a53Table_ascending : a53Table.Pairwise (· < ·) := by decide

theorem mem_a62Table_iff (x : Byte) :
    x ∈ a62Table ↔
      (x.getLsbD 7 = true ∧
        (∀ k : Fin 6, ¬(x.getLsbD k = false ∧ x.getLsbD (k + 1) = false ∧ x.getLsbD (k + 2) = false)) ∧
        ((List.range 7).countP fun k => !x.getLsbD k && !x.getLsbD (k + 1)) ≤ 1 ∧
        ∃ k : Fin 6, x.getLsbD k = true ∧ x.getLsbD (k + 1) = true) := by
  revert x; decide

theorem mem_a53Table_iff (x : Byte) :
    x ∈ a53Table ↔
      (x.getLsbD 7 = true ∧ (∀ k : Fin 7, ¬(x.getLsbD k = false ∧ x.getLsbD (k + 1) = false)) ∧
        x ≠ 0xD5 ∧ x ≠ 0xAA) := by
  revert x; decide

/-- Settles O34: each table is ascending, and a byte is in it exactly if the rule describes it. -/
theorem appleTablesByConstruction : Obligations.AppleTablesByConstruction := by
  unfold Obligations.AppleTablesByConstruction
  exact ⟨⟨rfl, a62Table_ascending, mem_a62Table_iff, by decide, by decide⟩,
    rfl, a53Table_ascending, mem_a53Table_iff⟩

/-! ### A byte's index (R293, R295) -/

section
variable {table : List Byte} {x : Byte}

theorem diskByteIndex_of_getElem? {i : Nat} (hasc : table.Pairwise (· < ·)) (hx : table[i]? = some x) :
    diskByteIndex table x = some i := by
  obtain ⟨hi, rfl⟩ := List.getElem?_eq_some_iff.1 hx
  refine List.findIdx?_eq_some_iff_getElem.2 ⟨hi, beq_self_eq_true _, fun j hji heq => ?_⟩
  exact (BitVec.ne_of_lt (List.pairwise_iff_getElem.1 hasc j i _ hi hji)) (eq_of_beq heq)

theorem diskByteIndex_of_notMem (hx : x ∉ table) : diskByteIndex table x = none :=
  List.findIdx?_eq_none_iff.2 fun _ hy => beq_false_of_ne fun heq => hx (heq ▸ hy)

theorem diskByteDecode_of_getElem? {w : Nat} {v : BitVec w} (hasc : table.Pairwise (· < ·))
    (hx : table[v.toNat]? = some x) : diskByteDecode table x = (v.setWidth 32, false) := by
  rw [diskByteDecode, diskByteIndex_of_getElem? hasc hx, ← BitVec.ofNat_toNat]

theorem diskByteDecode_of_notMem (hx : x ∉ table) : diskByteDecode table x = (0, true) := by
  rw [diskByteDecode, diskByteIndex_of_notMem hx]

end

/-! ### The commands -/

section
variable {table : List Byte} {x : Byte} (s : State)

/-- What an encoder writes, for either table (R292, R294). -/
theorem diskByte_encoded {i : Nat} (hx : table[i]? = some x) :
    { clearEvt s with dout0 := zext32 (table.getD i 0) } = { s with evt := 0, dout0 := x.setWidth 32 } := by
  rw [List.getD_eq_getElem?_getD, hx]
  rfl

/-- What a decoder does with a byte of its table, for either table (R293, R295). -/
theorem diskByte_decoded {w : Nat} {v : BitVec w} (hasc : table.Pairwise (· < ·))
    (hx : table[v.toNat]? = some x) :
    emit { decErr := (diskByteDecode table x).2 } { s with dout0 := (diskByteDecode table x).1 } =
      { s with evt := 0, dout0 := v.setWidth 32 } := by
  rw [diskByteDecode_of_getElem? hasc hx, emit_decErr]
  rfl

/-- What a decoder does with a byte outside its table, for either table (R293, R295). -/
theorem diskByte_decodeError (hx : x ∉ table) :
    emit { decErr := (diskByteDecode table x).2 } { s with dout0 := (diskByteDecode table x).1 } =
      { s with evt := 0x10, status := s.status ||| 0x20, dout0 := 0 } := by
  rw [diskByteDecode_of_notMem hx, emit_decErr]
  rfl

end

/-- Settles O35: a byte at an index of a table decodes to that index, and any other is a data error. -/
theorem appleDiskByteCommands : Obligations.AppleDiskByteCommands := by
  unfold Obligations.AppleDiskByteCommands
  refine fun s => ⟨fun v x hx => ⟨?_, ?_⟩, fun x hx => ?_, fun v x hx => ⟨?_, ?_⟩, fun x hx => ?_⟩
  · exact congrArg Host.Outcome.next (diskByte_encoded s hx)
  · exact congrArg Host.Outcome.next (diskByte_decoded s a62Table_ascending hx)
  · exact congrArg Host.Outcome.next (diskByte_decodeError s hx)
  · exact congrArg Host.Outcome.next (diskByte_encoded s hx)
  · exact congrArg Host.Outcome.next (diskByte_decoded s a53Table_ascending hx)
  · exact congrArg Host.Outcome.next (diskByte_decodeError s hx)

end Sys2Proof.Machine
end

section
/-! PROOFS. The Apple cell framer (spec/42_gcr_apple.md R296, R297): seven cells of a byte are taken in
silence, the eighth brings its 1 to bit 7, and 0 cells leave an empty register empty. -/

namespace Sys2Proof.Machine

/-! ### One cell -/

theorem exec_aplDecCell_silent {s : State} {b : Bool} (h : (pushCell s.aplsr b).getLsbD 7 = false) :
    exec (.aplDecCell b) s = .next { s with evt := 0, aplsr := pushCell s.aplsr b } := by
  simp only [exec, execAplDecCell, h, Bool.false_eq_true, if_false, clearEvt]

theorem exec_aplDecCell_byte {s : State} {b : Bool} (h : (pushCell s.aplsr b).getLsbD 7 = true) :
    exec (.aplDecCell b) s =
      .next { s with evt := 0x01, dout0 := (pushCell s.aplsr b).setWidth 32, aplsr := 0 } := by
  simp only [exec, execAplDecCell, h, if_true, emit_byte, zext32, Bool.false_eq_true, if_false]

theorem exec_aplDecCell (b : Bool) (s : State) :
    exec (.aplDecCell b) s =
      .next
        (if (pushCell s.aplsr b).getLsbD 7 then
          { s with evt := 0x01, dout0 := (pushCell s.aplsr b).setWidth 32, aplsr := 0 }
        else { s with evt := 0, aplsr := pushCell s.aplsr b }) := by
  split
  · exact exec_aplDecCell_byte ‹_›
  · exact exec_aplDecCell_silent (Bool.eq_false_iff.2 ‹_›)

/-! ### Cells taken in silence -/

/-- A register that holds at most `n` cells holds at most `n + 1` after one more. -/
theorem pushCell_toNat_lt {sr : BitVec 8} {n : Nat} (h : sr.toNat < 2 ^ n) (b : Bool) :
    (pushCell sr b).toNat < 2 ^ (n + 1) := by
  have hpush := pushCell_toNat sr b
  have hb := b.toNat_le
  omega

theorem getLsbD_seven_of_toNat_lt {sr : BitVec 8} {n : Nat} (h : sr.toNat < 2 ^ n) (hn : n ≤ 7) :
    sr.getLsbD 7 = false :=
  Nat.testBit_lt_two_pow (h.trans_le (Nat.pow_le_pow_right two_pos hn))

theorem reports_aplDecCells_silent {s : State} {n : Nat} {l : List Bool} (h : s.aplsr.toNat < 2 ^ n)
    (hn : n + l.length ≤ 7) (is : List Instr) :
    ∃ t, reports (l.map .aplDecCell ++ is) s = reports is t ∧ t.aplsr = l.foldl pushCell s.aplsr := by
  induction l generalizing s n with
  | nil => exact ⟨s, rfl, rfl⟩
  | cons b l ih =>
    rw [List.length_cons] at hn
    have hnext := pushCell_toNat_lt h b
    have hexec := exec_aplDecCell_silent (getLsbD_seven_of_toNat_lt hnext (by omega))
    obtain ⟨t, hr, ht⟩ := ih (s := { s with evt := 0, aplsr := pushCell s.aplsr b }) hnext (by omega)
    exact ⟨t, (reports_cons_of_evt_zero hexec rfl _).trans hr, ht⟩

theorem reports_aplDecCells_gap {s : State} (hs : s.aplsr = 0) (n : Nat) (is : List Instr) :
    ∃ t, reports ((List.replicate n false).map .aplDecCell ++ is) s = reports is t ∧ t.aplsr = 0 := by
  induction n generalizing s with
  | zero => exact ⟨s, rfl, hs⟩
  | succ n ih =>
    have hpush : pushCell s.aplsr false = 0 := by rw [hs]; decide
    have hexec := exec_aplDecCell_silent (s := s) (b := false) (by rw [hpush]; decide)
    obtain ⟨t, hr, ht⟩ := ih (s := { s with evt := 0, aplsr := pushCell s.aplsr false }) hpush
    exact ⟨t, (reports_cons_of_evt_zero hexec rfl _).trans hr, ht⟩

/-! ### Whole bytes -/

/-- The cells of a byte with bit 7 set, sent into an empty register. -/
theorem reports_aplDecCells_byte {s : State} {x : Byte} (hs : s.aplsr = 0) (hx : x.getLsbD 7 = true)
    (is : List Instr) :
    ∃ t, reports ((cellsOf x).map .aplDecCell ++ is) s = (x.setWidth 32, 0x01) :: reports is t ∧
      t.aplsr = 0 := by
  have hsplit : cellsOf x = (cellsOf x).take 7 ++ [x.getLsbD 0] := rfl
  obtain ⟨t, hr, ht⟩ := reports_aplDecCells_silent (s := s) (n := 0) (l := (cellsOf x).take 7)
    (by rw [hs]; decide) (by simp) (.aplDecCell (x.getLsbD 0) :: is)
  have hword : pushCell t.aplsr (x.getLsbD 0) = x := ht ▸ foldl_pushCell_cellsOf x s.aplsr
  have hexec := exec_aplDecCell_byte (s := t) (hword.symm ▸ hx)
  rw [hword] at hexec
  refine ⟨{ t with evt := 0x01, dout0 := x.setWidth 32, aplsr := 0 }, ?_, rfl⟩
  rw [← reports_cons_of_evt_ne_zero hexec (by decide : (0x01 : Byte) ≠ 0), ← hr, hsplit, List.map_append,
    List.append_assoc]
  rfl

/-- Bytes with gaps of 0 cells after them. -/
theorem reports_aplDecCells_bytes {s : State} {l : List (Byte × Nat)} (hs : s.aplsr = 0)
    (hl : ∀ x ∈ l, x.1.getLsbD 7 = true) :
    reports ((l.flatMap fun x => cellsOf x.1 ++ List.replicate x.2 false).map .aplDecCell) s =
      l.map fun x => (x.1.setWidth 32, 0x01) := by
  induction l generalizing s with
  | nil => rfl
  | cons x l ih =>
    obtain ⟨hx, hrest⟩ := List.forall_mem_cons.1 hl
    rw [List.flatMap_cons, List.map_append, List.map_append, List.append_assoc, List.map_cons]
    obtain ⟨t, hbyte, ht⟩ := reports_aplDecCells_byte hs hx _
    obtain ⟨u, hgap, hu⟩ := reports_aplDecCells_gap ht x.2 _
    rw [hbyte, hgap, ih hu hrest]

/-- Settles O24, by the effect of one cell and by induction on the bytes. -/
theorem appleCellFramer : Obligations.AppleCellFramer := by
  unfold Obligations.AppleCellFramer
  refine ⟨fun b s => ?_, fun s l => reports_aplDecCells_bytes⟩
  rw [← pushCell_eq_ofNat]
  exact exec_aplDecCell b s

end Sys2Proof.Machine
end

section
/-! PROOFS. The prologue FSM (spec/42_gcr_apple.md R298, R299): a state other than IDLE, and a mark, each
tells the bytes that led to it. -/

namespace Sys2Proof.Machine

/-! ### One byte -/

/-- EVT after a byte (R36): the mark alone. -/
def markEvt : Mark → Byte
  | .noMark => 0
  | .addrMark => 0x20
  | .dataMark => 0x40
  | .epilogue => 0x60

theorem pack_mark (m : Mark) : ({ mark := m } : Events).pack = markEvt m := by cases m <;> decide

theorem markEvt_injective : Function.Injective markEvt := by
  intro m n
  cases m <;> cases n <;> decide

theorem exec_aproStep (x : Byte) (s : State) :
    exec (.aproStep x) s =
      .next { s with evt := markEvt (apro s.apro x).2, apro := (apro s.apro x).1 } := by
  simp only [exec, execAproStep, emit, pack_mark, Bool.false_eq_true, if_false]

/-! ### What a state and a mark tell of the byte (R298) -/

section
variable {a : AproState} {x : Byte}

theorem apro_eq_d5Seen_iff : (apro a x).1 = .d5Seen ↔ x = 0xD5 := by
  unfold apro; split_ifs <;> simp_all

theorem apro_eq_aaSeen_iff : (apro a x).1 = .aaSeen ↔ a = .d5Seen ∧ x = 0xAA := by
  unfold apro; split_ifs <;> simp_all

theorem apro_eq_deSeen_iff : (apro a x).1 = .deSeen ↔ a = .idle ∧ x = 0xDE := by
  unfold apro; split_ifs <;> simp_all

theorem apro_eq_deAa_iff : (apro a x).1 = .deAa ↔ a = .deSeen ∧ x = 0xAA := by
  unfold apro; split_ifs <;> simp_all

theorem apro_mark_eq_addrMark_iff : (apro a x).2 = .addrMark ↔ a = .aaSeen ∧ x = 0x96 := by
  unfold apro; split_ifs <;> simp_all

theorem apro_mark_eq_dataMark_iff : (apro a x).2 = .dataMark ↔ a = .aaSeen ∧ x = 0xAD := by
  unfold apro; split_ifs <;> simp_all

theorem apro_mark_eq_epilogue_iff : (apro a x).2 = .epilogue ↔ a = .deAa ∧ x = 0xEB := by
  unfold apro; split_ifs <;> simp_all

end

/-! ### Three bytes -/

/-- The mark the third of three bytes reports. -/
def aproMark (a : AproState) (x y z : Byte) : Mark := (apro (apro (apro a x).1 y).1 z).2

theorem execAll_aproStep (s : State) (x y z : Byte) :
    ∃ t, execAll [.aproStep x, .aproStep y, .aproStep z] s = some t ∧
      t.evt = markEvt (aproMark s.apro x y z) := by
  exact ⟨_, (execAll_cons (exec_aproStep x s) _).trans
    ((execAll_cons (exec_aproStep y _) _).trans (execAll_cons (exec_aproStep z _) _)), rfl⟩

section
variable {a : AproState} {x y z : Byte}

theorem aproMark_eq_addrMark_iff : aproMark a x y z = .addrMark ↔ x = 0xD5 ∧ y = 0xAA ∧ z = 0x96 := by
  rw [aproMark, apro_mark_eq_addrMark_iff, apro_eq_aaSeen_iff, apro_eq_d5Seen_iff, and_assoc]

theorem aproMark_eq_dataMark_iff : aproMark a x y z = .dataMark ↔ x = 0xD5 ∧ y = 0xAA ∧ z = 0xAD := by
  rw [aproMark, apro_mark_eq_dataMark_iff, apro_eq_aaSeen_iff, apro_eq_d5Seen_iff, and_assoc]

/-- The epilogue is seen only from IDLE. -/
theorem aproMark_eq_epilogue_iff :
    aproMark a x y z = .epilogue ↔ a = .idle ∧ x = 0xDE ∧ y = 0xAA ∧ z = 0xEB := by
  rw [aproMark, apro_mark_eq_epilogue_iff, apro_eq_deAa_iff, apro_eq_deSeen_iff, and_assoc, and_assoc]

end

/-- Settles O36: the transitions are the lines of R298, and each mark tells the three bytes before it. -/
theorem prologueMachine : Obligations.PrologueMachine := by
  unfold Obligations.PrologueMachine
  refine ⟨fun s x => ?_, fun s x y z => ?_⟩
  · rw [exec_aproStep, apro]
    split_ifs <;> rfl
  · obtain ⟨t, hrun, hevt⟩ := execAll_aproStep s x y z
    have hmark (m : Mark) : t.evt = markEvt m ↔ aproMark s.apro x y z = m := by
      rw [hevt, markEvt_injective.eq_iff]
    exact ⟨t, hrun, (hmark .addrMark).trans aproMark_eq_addrMark_iff,
      (hmark .dataMark).trans aproMark_eq_dataMark_iff,
      fun h => (aproMark_eq_epilogue_iff.1 ((hmark .epilogue).1 h)).2,
      fun hidle hbytes => (hmark .epilogue).2 (aproMark_eq_epilogue_iff.2 ⟨hidle, hbytes⟩)⟩

end Sys2Proof.Machine
end

section
/-! PROOFS. Amiga MFM (spec/43_amiga_mfm.md R330 to R338): the bits of a half, of its encoded word and of the
long joined from two words. A word's data cells are its even bits and its clock cells its odd ones. -/

namespace Sys2Proof.Machine

/-! ### Data cells and clock cells (R330) -/

theorem amiMask_getLsbD_even {k : Nat} (hk : k < 16) : amiMask.getLsbD (2 * k) = true := by
  revert k; decide

theorem amiMask_getLsbD_odd {k : Nat} (hk : k < 16) : amiMask.getLsbD (2 * k + 1) = false := by
  revert k; decide

theorem xor_and_amiMask (v w : Word) : (v ^^^ w) &&& amiMask = (v &&& amiMask) ^^^ (w &&& amiMask) := by
  ext i hi
  simp only [BitVec.getElem_and, BitVec.getElem_xor, Bool.and_xor_distrib_right]

/-- Two words with the same data cells and the same clock cells are equal. -/
theorem word_eq_of_cells {v w : Word} (hdata : ∀ k < 16, v.getLsbD (2 * k) = w.getLsbD (2 * k))
    (hclock : ∀ k < 16, v.getLsbD (2 * k + 1) = w.getLsbD (2 * k + 1)) : v = w := by
  apply BitVec.eq_of_getLsbD_eq
  intro i hi
  obtain ⟨k, rfl | rfl⟩ := Nat.even_or_odd' i
  · exact hdata k (by omega)
  · exact hclock k (by omega)

/-- The data bits of a half. -/
def halfWord : AmiHalf → Word → Word
  | .odd => oddHalf
  | .even => evenHalf

/-- The long's bit that a half's data cell 0 carries. -/
def halfOffset : AmiHalf → Nat
  | .odd => 1
  | .even => 0

theorem halfWord_and_amiMask (h : AmiHalf) (d : Word) : halfWord h d &&& amiMask = halfWord h d := by
  cases h <;> simp only [halfWord, oddHalf, evenHalf, BitVec.and_assoc, BitVec.and_self]

theorem halfWord_getLsbD_data (h : AmiHalf) (d : Word) {k : Nat} (hk : k < 16) :
    (halfWord h d).getLsbD (2 * k) = d.getLsbD (2 * k + halfOffset h) := by
  cases h <;>
    simp [halfWord, halfOffset, oddHalf, evenHalf, amiMask_getLsbD_even hk, Nat.add_comm]

theorem halfWord_getLsbD_clock (h : AmiHalf) (d : Word) {k : Nat} (hk : k < 16) :
    (halfWord h d).getLsbD (2 * k + 1) = false := by
  rw [← halfWord_and_amiMask, BitVec.getLsbD_and, amiMask_getLsbD_odd hk, Bool.and_false]

/-! ### The encoded word of a half (R331) -/

/-- Clock cell 2k+1 between the data cells of `x`, after the cell `p`. -/
def halfClock (x : Word) (p : Bool) (k : Nat) : Bool :=
  !(if k = 15 then p else x.getLsbD (2 * k + 2)) && !x.getLsbD (2 * k)

theorem mfm32Clock_getLsbD (x : Word) (p : Bool) (w : Word) {k i : Nat} (hi : i < 32) :
    (mfm32Clock x p w k).getLsbD i = (w.getLsbD i || decide (i = 2 * k + 1) && halfClock x p k) := by
  have hturn : mfm32Clock x p w k = if halfClock x p k then w ||| 1#32 <<< (2 * k + 1) else w := rfl
  have hbit : (1#32 <<< (2 * k + 1)).getLsbD i = decide (i = 2 * k + 1) := by
    simp only [BitVec.getLsbD_shiftLeft, BitVec.getLsbD_one, hi, decide_true, Bool.true_and]
    grind
  rw [hturn]
  cases halfClock x p k
  · simp
  · simp [hbit]

/-- The first `n` turns of the loop. -/
theorem foldl_mfm32Clock_getLsbD (x : Word) (p : Bool) (n : Nat) {i : Nat} (hi : i < 32) :
    ((List.range n).foldl (mfm32Clock x p) x).getLsbD i =
      (x.getLsbD i || decide (i % 2 = 1 ∧ i / 2 < n) && halfClock x p (i / 2)) := by
  induction n with
  | zero => simp
  | succ n ih =>
    rw [List.range_succ, List.foldl_append, List.foldl_cons, List.foldl_nil, mfm32Clock_getLsbD _ _ _ hi, ih]
    by_cases hturn : i = 2 * n + 1
    · have hk : i / 2 = n := by omega
      have hnew : i % 2 = 1 ∧ n < n + 1 := by omega
      simp only [hk, lt_irrefl, and_false, decide_false, Bool.false_and, Bool.or_false, decide_eq_true hturn,
        decide_eq_true hnew]
    · have hlt : (i % 2 = 1 ∧ i / 2 < n + 1) ↔ (i % 2 = 1 ∧ i / 2 < n) := by omega
      simp only [hlt, decide_eq_false hturn, Bool.false_and, Bool.or_false]

theorem mfm32_getLsbD_data (x : Word) (p : Bool) {k : Nat} (hk : k < 16) :
    (mfm32 x p).1.getLsbD (2 * k) = x.getLsbD (2 * k) := by
  rw [mfm32, foldl_mfm32Clock_getLsbD _ _ _ (by omega)]
  simp

theorem mfm32_getLsbD_clock (x : Word) (p : Bool) {k : Nat} (hk : k < 16) :
    (mfm32 x p).1.getLsbD (2 * k + 1) = (x.getLsbD (2 * k + 1) || halfClock x p k) := by
  have hdiv : (2 * k + 1) / 2 = k := by omega
  rw [mfm32, foldl_mfm32Clock_getLsbD _ _ _ (by omega), hdiv]
  simp [hk]

/-- The last cell of a word is its data cell 0. -/
theorem mfm32_last (x : Word) (p : Bool) : (mfm32 x p).2 = x.getLsbD 0 :=
  mfm32_getLsbD_data x p (k := 0) (by decide)

theorem mfm32_and_amiMask (x : Word) (p : Bool) : (mfm32 x p).1 &&& amiMask = x &&& amiMask := by
  refine word_eq_of_cells (fun k hk => ?_) fun k hk => ?_
  · rw [BitVec.getLsbD_and, BitVec.getLsbD_and, mfm32_getLsbD_data x p hk]
  · rw [BitVec.getLsbD_and, BitVec.getLsbD_and, amiMask_getLsbD_odd hk, Bool.and_false, Bool.and_false]

/-- The clock rule holds between the cells of the word itself: the loop leaves its data cells as they were. -/
theorem mfm32_halfWord_getLsbD_clock (h : AmiHalf) (d : Word) (p : Bool) {k : Nat} (hk : k < 16) :
    (mfm32 (halfWord h d) p).1.getLsbD (2 * k + 1) = halfClock (mfm32 (halfWord h d) p).1 p k := by
  rw [mfm32_getLsbD_clock _ _ hk, halfWord_getLsbD_clock h d hk, Bool.false_or, halfClock, halfClock,
    mfm32_getLsbD_data _ _ hk]
  by_cases hlast : k = 15
  · rw [if_pos hlast, if_pos hlast]
  · have hnext : (mfm32 (halfWord h d) p).1.getLsbD (2 * k + 2) = (halfWord h d).getLsbD (2 * k + 2) :=
      mfm32_getLsbD_data _ _ (k := k + 1) (by omega)
    rw [if_neg hlast, if_neg hlast, hnext]

/-! ### The encoding commands (R332, R333) -/

theorem exec_amiEncHalf (h : AmiHalf) (s : State) :
    exec (.amiEncHalf h) s =
      .next
        { s with
          evt := 0
          dout0 := (mfm32 (halfWord h s.din0) s.enc.amiprev).1
          enc := { s.enc with amiprev := s.din0.getLsbD (halfOffset h) } } := by
  have hlast := (mfm32_last (halfWord h s.din0) s.enc.amiprev).trans
    (halfWord_getLsbD_data h s.din0 (k := 0) (by decide))
  rw [Nat.mul_zero, Nat.zero_add] at hlast
  rw [← hlast]
  cases h <;> rfl

theorem exec_amiEncLong (s : State) :
    exec .amiEncLong s =
      .next
        { s with
          evt := 0
          dout0 := (mfm32 (oddHalf s.din0) s.enc.amiprev).1
          dout1 := (mfm32 (evenHalf s.din0) (s.din0.getLsbD 1)).1
          enc := { s.enc with amiprev := s.din0.getLsbD 0 } } := by
  have hodd : (mfm32 (oddHalf s.din0) s.enc.amiprev).2 = s.din0.getLsbD 1 :=
    (mfm32_last _ _).trans (halfWord_getLsbD_data .odd s.din0 (k := 0) (by decide))
  have heven : (mfm32 (evenHalf s.din0) (s.din0.getLsbD 1)).2 = s.din0.getLsbD 0 :=
    (mfm32_last _ _).trans (halfWord_getLsbD_data .even s.din0 (k := 0) (by decide))
  rw [← heven, ← hodd]
  rfl

/-- Settles O37, by the bits of a half's encoded word; the long's two words are those of its halves. -/
theorem amigaEncoding : Obligations.AmigaEncoding := by
  unfold Obligations.AmigaEncoding
  refine ⟨fun h s => ?_, fun s => ?_⟩
  · exact ⟨_, exec_amiEncHalf h s, fun k hk =>
      ⟨(mfm32_getLsbD_data _ _ hk).trans (halfWord_getLsbD_data h s.din0 hk),
        mfm32_halfWord_getLsbD_clock h s.din0 s.enc.amiprev hk⟩⟩
  · exact ⟨_, _, exec_amiEncHalf .odd s, exec_amiEncHalf .even _, exec_amiEncLong s⟩

/-! ### The decoding command (R334) -/

theorem amiJoin_getLsbD_even (o e : Word) {k : Nat} (hk : k < 16) :
    (amiJoin o e).getLsbD (2 * k) = e.getLsbD (2 * k) := by
  have hshift : ((o &&& amiMask) <<< 1).getLsbD (2 * k) = false := by
    rcases k with _ | j
    · simp
    · have hpred : 2 * (j + 1) - 1 = 2 * j + 1 := by omega
      rw [BitVec.getLsbD_shiftLeft, hpred, BitVec.getLsbD_and, amiMask_getLsbD_odd (by omega)]
      simp
  rw [amiJoin, BitVec.getLsbD_or, hshift, BitVec.getLsbD_and, amiMask_getLsbD_even hk, Bool.and_true,
    Bool.false_or]

theorem amiJoin_getLsbD_odd (o e : Word) {k : Nat} (hk : k < 16) :
    (amiJoin o e).getLsbD (2 * k + 1) = o.getLsbD (2 * k) := by
  have hshift : ((o &&& amiMask) <<< 1).getLsbD (2 * k + 1) = (o &&& amiMask).getLsbD (2 * k) := by
    rw [BitVec.getLsbD_shiftLeft, decide_eq_true (by omega), decide_eq_false (by omega), Nat.add_sub_cancel]
    rfl
  rw [amiJoin, BitVec.getLsbD_or, hshift, BitVec.getLsbD_and, BitVec.getLsbD_and, amiMask_getLsbD_even hk,
    amiMask_getLsbD_odd hk, Bool.and_true, Bool.and_false, Bool.or_false]

/-- The encoded halves of a long join to the long, whatever cells came before each. -/
theorem amiJoin_mfm32 (d : Word) (p q : Bool) :
    amiJoin (mfm32 (oddHalf d) p).1 (mfm32 (evenHalf d) q).1 = d := by
  refine word_eq_of_cells (fun k hk => ?_) fun k hk => ?_
  · rw [amiJoin_getLsbD_even _ _ hk, mfm32_getLsbD_data _ _ hk]
    exact halfWord_getLsbD_data .even d hk
  · rw [amiJoin_getLsbD_odd _ _ hk, mfm32_getLsbD_data _ _ hk]
    exact halfWord_getLsbD_data .odd d hk

theorem exec_amiDecLong (s : State) :
    exec .amiDecLong s = .next { s with evt := 0, dout0 := amiJoin s.din0 s.din1 } := rfl

/-- Settles O38, by the bits of the joined long. -/
theorem amigaDecodeInvertsEncode : Obligations.AmigaDecodeInvertsEncode := by
  unfold Obligations.AmigaDecodeInvertsEncode
  refine ⟨fun s => ⟨_, exec_amiDecLong s, fun k hk =>
    ⟨amiJoin_getLsbD_odd _ _ hk, amiJoin_getLsbD_even _ _ hk⟩⟩, fun s => ⟨_, exec_amiEncLong s, ?_⟩⟩
  rw [exec_amiDecLong, amiJoin_mfm32]

/-! ### The checksum (R336 to R338) -/

theorem exec_amiCsumClr (s : State) : exec .amiCsumClr s = .next { s with evt := 0, amiacc := 0 } := rfl

theorem exec_amiCsumAdd (s : State) :
    exec .amiCsumAdd s =
      .next
        { s with
          evt := 0
          amiacc := s.amiacc ^^^ s.din0
          dout0 := (s.amiacc &&& amiMask) ^^^ (s.din0 &&& amiMask) } := by
  rw [← xor_and_amiMask]
  rfl

/-- R338: the mask removes every clock cell from the sum of a long's two words. -/
theorem mfm32_xor_and_amiMask (d : Word) (p q : Bool) :
    ((mfm32 (oddHalf d) p).1 ^^^ (mfm32 (evenHalf d) q).1) &&& amiMask = ((d >>> 1) ^^^ d) &&& amiMask :=
  calc
    _ = (oddHalf d &&& amiMask) ^^^ (evenHalf d &&& amiMask) := by
      rw [xor_and_amiMask, mfm32_and_amiMask, mfm32_and_amiMask]
    _ = oddHalf d ^^^ evenHalf d :=
      congrArg₂ _ (halfWord_and_amiMask .odd d) (halfWord_and_amiMask .even d)
    _ = _ := (xor_and_amiMask _ _).symm

/-- One word added: the accumulator and the checksum so far. -/
theorem exec_amiCsumAdd_word (s : State) (a : Word) :
    ∃ t, exec .amiCsumAdd { s with din0 := a } = .next t ∧ t.amiacc = s.amiacc ^^^ a ∧
      t.dout0 = (s.amiacc ^^^ a) &&& amiMask := ⟨_, rfl, rfl, rfl⟩

/-- Settles O39: from a cleared accumulator the two words of a long leave their masked sum. -/
theorem amigaChecksum : Obligations.AmigaChecksum := by
  unfold Obligations.AmigaChecksum
  refine ⟨fun s => ⟨exec_amiCsumClr s, exec_amiCsumAdd s⟩, fun s => ?_⟩
  obtain ⟨t, henc, hodd, heven⟩ : ∃ t, exec .amiEncLong s = .next t ∧
      t.dout0 = (mfm32 (oddHalf s.din0) s.enc.amiprev).1 ∧
      t.dout1 = (mfm32 (evenHalf s.din0) (s.din0.getLsbD 1)).1 := ⟨_, exec_amiEncLong s, rfl, rfl⟩
  obtain ⟨u, hclr, hu⟩ : ∃ u, exec .amiCsumClr t = .next u ∧ u.amiacc = 0#32 := ⟨_, exec_amiCsumClr t, rfl⟩
  obtain ⟨v, haddOdd, hv, -⟩ := exec_amiCsumAdd_word u t.dout0
  obtain ⟨w, haddEven, -, hw⟩ := exec_amiCsumAdd_word v t.dout1
  refine ⟨t, u, v, w, henc, hclr, haddOdd, haddEven, ?_⟩
  rw [hw, hv, hu, BitVec.zero_xor, hodd, heven]
  exact mfm32_xor_and_amiMask s.din0 _ _

end Sys2Proof.Machine
end

section
/-! PROOFS. The CRC generators (spec/44_crc.md R350 to R363): serial division with the most significant bit
first, over any width and polynomial, gives CRC-16 and the IPF CRC-32; the reflected CRC-32 is the mirror
image of the latter. -/

namespace Sys2Proof.Machine

section SerialDivision

/-! ### Serial division, most significant bit first -/

/-- One bit `d` of a message divided into the register `r`, most significant bit first. -/
def divBit {w : Nat} (p r : BitVec w) (d : Bool) : BitVec w :=
  if (r.getLsbD (w - 1) ^^ d) then (r <<< 1) ^^^ p else r <<< 1

variable {w : Nat} (p r y : BitVec w)

/-- Bits already added to the register leave it at the top, one at a turn. -/
theorem divBit_xor_false : divBit p (r ^^^ y) false = divBit p r (y.getLsbD (w - 1)) ^^^ (y <<< 1) := by
  rw [divBit, divBit, Bool.xor_false, BitVec.getLsbD_xor, BitVec.shiftLeft_xor_distrib]
  split
  · rw [BitVec.xor_assoc, BitVec.xor_comm (y <<< 1), ← BitVec.xor_assoc]
  · rfl

theorem take_cellsOf_succ {n : Nat} (hn : n < w) :
    (cellsOf y).take (n + 1) = (cellsOf y).take n ++ [y.getLsbD (w - 1 - n)] := by
  have hlt : n < (cellsOf y).length := by rwa [cellsOf_length]
  rw [List.take_add_one, List.getElem?_eq_getElem hlt, cellsOf_getElem]
  rfl

/-- Adding bits to the top of the register and then turning it divides them in, one by one. -/
theorem iterate_divBit_xor {n : Nat} (hn : n ≤ w) :
    (divBit p · false)^[n] (r ^^^ y) = ((cellsOf y).take n).foldl (divBit p) r ^^^ (y <<< n) := by
  induction n with
  | zero => simp
  | succ n ih =>
    have htop : (y <<< n).getLsbD (w - 1) = y.getLsbD (w - 1 - n) := by
      rw [BitVec.getLsbD_shiftLeft]
      simp [show w - 1 < w by omega, show ¬ w - 1 < n by omega]
    rw [Function.iterate_succ_apply', ih (by omega), divBit_xor_false, htop, take_cellsOf_succ y (by omega),
      List.foldl_append, BitVec.shiftLeft_add]
    rfl

theorem take_cellsOf_topByte (hw : 8 ≤ w) (b : Byte) :
    (cellsOf (b.setWidth w <<< (w - 8))).take 8 = cellsOf b := by
  apply List.ext_getElem
  · simp [hw]
  · intro i hi _
    have hi : i < 8 := by simp at hi; omega
    rw [List.getElem_take, cellsOf_getElem, cellsOf_getElem, BitVec.getLsbD_shiftLeft, BitVec.getLsbD_setWidth]
    simp [show w - 1 - i < w by omega, show ¬ w - 1 - i < w - 8 by omega,
      show w - 1 - i - (w - 8) = 7 - i by omega, show 7 - i < w by omega]

/-- A byte added at the top and eight turns of the register divide the byte in. -/
theorem iterate_divBit_byte (hw : 8 ≤ w) (b : Byte) :
    (divBit p · false)^[8] (r ^^^ (b.setWidth w <<< (w - 8))) = (cellsOf b).foldl (divBit p) r := by
  have hout : (b.setWidth w <<< (w - 8)) <<< 8 = 0#w := by
    rw [← BitVec.shiftLeft_add, Nat.sub_add_cancel hw, BitVec.shiftLeft_eq_zero (le_refl w)]
  rw [iterate_divBit_xor _ _ _ hw, take_cellsOf_topByte hw, hout, BitVec.xor_zero]

/-- A register that divides its own bits never subtracts, and shifts them all out. -/
theorem foldl_divBit_cellsOf_self : (cellsOf r).foldl (divBit p) r = 0 := by
  have hturn : Function.IsFixedPt (divBit p · false) 0#w := by simp [Function.IsFixedPt, divBit]
  have hzero := iterate_divBit_xor p r r (le_refl w)
  rwa [BitVec.xor_self, (hturn.iterate w).eq, BitVec.shiftLeft_eq_zero (le_refl w), BitVec.xor_zero,
    List.take_of_length_le (cellsOf_length r).le, eq_comm] at hzero

/-! ### Serial division, least significant bit first, is the mirror image -/

/-- One bit `d` of a message divided into the register `r`, least significant bit first. -/
def divBitLsb {w : Nat} (p r : BitVec w) (d : Bool) : BitVec w :=
  if (r.getLsbD 0 ^^ d) then (r >>> 1) ^^^ p else r >>> 1

theorem reverse_getLsbD {i : Nat} (hi : i < w) : r.reverse.getLsbD i = r.getLsbD (w - 1 - i) := by
  rw [BitVec.getLsbD_reverse, BitVec.getMsbD_eq_getLsbD, decide_eq_true hi, Bool.true_and]

theorem reverse_xor : (r ^^^ y).reverse = r.reverse ^^^ y.reverse := by
  apply BitVec.eq_of_getLsbD_eq
  intro i hi
  rw [BitVec.getLsbD_xor, reverse_getLsbD _ hi, reverse_getLsbD _ hi, reverse_getLsbD _ hi, BitVec.getLsbD_xor]

theorem reverse_shiftLeft (n : Nat) : (r <<< n).reverse = r.reverse >>> n := by
  apply BitVec.eq_of_getLsbD_eq
  intro i hi
  rw [reverse_getLsbD _ hi, BitVec.getLsbD_shiftLeft, BitVec.getLsbD_ushiftRight]
  by_cases hin : n + i < w
  · rw [reverse_getLsbD _ hin]
    simp [show w - 1 - i < w by omega, show ¬ w - 1 - i < n by omega,
      show w - 1 - i - n = w - 1 - (n + i) by omega]
  · have hout : r.reverse.getLsbD (n + i) = false := BitVec.getLsbD_of_ge _ _ (by omega)
    simp [hout, show w - 1 - i < n by omega]

theorem reverse_divBit (d : Bool) : (divBit p r d).reverse = divBitLsb p.reverse r.reverse d := by
  have hend : r.reverse.getLsbD 0 = r.getLsbD (w - 1) := by
    rw [BitVec.getLsbD_reverse, BitVec.getMsbD_eq_getLsbD]
    cases w <;> simp
  rw [divBit, divBitLsb, hend, apply_ite BitVec.reverse, reverse_xor, reverse_shiftLeft]

theorem cellsOf_reverse : cellsOf r.reverse = (cellsOf r).reverse := by
  apply List.ext_getElem
  · simp
  · intro i hi _
    have hi : i < w := by simpa using hi
    rw [List.getElem_reverse, cellsOf_getElem, cellsOf_getElem, reverse_getLsbD _ (by omega), cellsOf_length]

end SerialDivision

/-! ### The generators (R350, R355, R359) -/

theorem crc16Byte_eq_foldl (r : BitVec 16) (b : Byte) :
    crc16Byte r b = (cellsOf b).foldl (divBit 0x1021) r := by
  have hturn : crc16Bit = (divBit 0x1021 · false) := by
    funext s
    rw [crc16Bit, divBit, Bool.xor_false]
  rw [crc16Byte, hturn]
  exact iterate_divBit_byte _ r (by decide) b

theorem crc32beBit_eq_divBit (r : Word) : crc32beBit r = divBit 0x04C11DB7 r false := by
  rw [crc32beBit, divBit, Bool.xor_false]

theorem crc32beByte_eq_foldl (r : Word) (b : Byte) :
    crc32beByte r b = (cellsOf b).foldl (divBit 0x04C11DB7) r := by
  rw [crc32beByte, funext crc32beBit_eq_divBit]
  exact iterate_divBit_byte _ r (by decide) b

/-- R363: the two polynomials. -/
theorem crc32Poly_eq_reverse : (0xEDB88320 : Word) = BitVec.reverse 0x04C11DB7 := by decide +kernel

theorem reverse_crc32beBit (r : Word) : (crc32beBit r).reverse = crc32Bit r.reverse := by
  rw [crc32beBit_eq_divBit, reverse_divBit, ← crc32Poly_eq_reverse, divBitLsb, Bool.xor_false, crc32Bit]

theorem reverse_topByte (b : Byte) : (b.setWidth 32 <<< 24 : Word).reverse = b.reverse.setWidth 32 := by
  apply BitVec.eq_of_getLsbD_eq
  intro i hi
  rw [reverse_shiftLeft, BitVec.getLsbD_ushiftRight, BitVec.getLsbD_setWidth, BitVec.getLsbD_reverse,
    BitVec.getMsbD_setWidth, BitVec.getLsbD_reverse]
  simp [hi, show 32 - 8 ≤ 24 + i by omega]

theorem reverse_crc32beByte (r : Word) (b : Byte) :
    (crc32beByte r b).reverse = crc32Byte r.reverse b.reverse := by
  have hturns : Function.Semiconj BitVec.reverse crc32beBit crc32Bit := reverse_crc32beBit
  rw [crc32beByte, crc32Byte, (hturns.iterate_right 8).eq, reverse_xor, reverse_topByte]

/-- R363. -/
theorem crc32Byte_eq_mirror (r : Word) (b : Byte) :
    crc32Byte r b = (crc32beByte r.reverse b.reverse).reverse := by
  rw [reverse_crc32beByte, BitVec.reverse_reverse_eq, BitVec.reverse_reverse_eq]

theorem crc32Byte_eq_foldl (r : Word) (b : Byte) :
    crc32Byte r b = (cellsOf b).reverse.foldl (divBitLsb 0xEDB88320) r := by
  have hmirror (r : Word) (d : Bool) :
      divBitLsb 0xEDB88320 r.reverse d = (divBit 0x04C11DB7 r d).reverse := by
    rw [reverse_divBit, crc32Poly_eq_reverse]
  rw [crc32Byte_eq_mirror, crc32beByte_eq_foldl, ← List.foldl_hom BitVec.reverse hmirror,
    BitVec.reverse_reverse_eq, cellsOf_reverse]

/-! ### The commands (R352 to R354, R356 to R358, R360 to R362) -/

theorem exec_crc16Byte (b : Byte) (s : State) :
    exec (.crc16Byte b) s =
      .next { s with evt := 0, crc16 := crc16Byte s.crc16 b, dout0 := (crc16Byte s.crc16 b).setWidth 32 } := rfl

theorem exec_crc32Byte (b : Byte) (s : State) :
    exec (.crc32Byte b) s =
      .next
        { s with
          evt := 0
          crc32 := crc32Byte s.crc32 b
          dout0 := crc32Byte s.crc32 b
          dout1 := ~~~crc32Byte s.crc32 b } := by
  rw [← BitVec.xor_allOnes]
  rfl

theorem exec_crc32beByte (b : Byte) (s : State) :
    exec (.crc32beByte b) s =
      .next { s with evt := 0, crc32be := crc32beByte s.crc32be b, dout0 := crc32beByte s.crc32be b } := rfl

end Sys2Proof.Machine
end

section
/-! PROOFS. The statements about the CRC generators. -/

namespace Sys2Proof.Machine

/-- Settles O40: a load writes its register, and each generator's byte step is serial division. -/
theorem crcCommands : Obligations.CrcCommands := by
  unfold Obligations.CrcCommands
  intro s v b
  have h16 := exec_crc16Byte b s
  have h32 := exec_crc32Byte b s
  have h32be := exec_crc32beByte b s
  rw [crc16Byte_eq_foldl] at h16
  rw [crc32Byte_eq_foldl] at h32
  rw [crc32beByte_eq_foldl] at h32be
  exact ⟨rfl, rfl, h16, rfl, rfl, h32, rfl, rfl, h32be⟩

/-- The two bytes of a CRC-16 register, high byte first, are its own bits in the order of division. -/
theorem foldl_crc16Byte_self (r : BitVec 16) :
    [r.extractLsb' 8 8, r.extractLsb' 0 8].foldl crc16Byte r = 0 := by
  have hcells : cellsOf r = cellsOf (r.extractLsb' 8 8) ++ cellsOf (r.extractLsb' 0 8) := by
    simp [cellsOf_half, cellsOf_byte]
  have hself := foldl_divBit_cellsOf_self 0x1021 r
  rwa [hcells, List.foldl_append, ← crc16Byte_eq_foldl, ← crc16Byte_eq_foldl] at hself

/-- Settles O41: the values by evaluation, the test for a good field because a register's own bytes divide to
0. -/
theorem crc16FieldTest : Obligations.Crc16FieldTest := by
  unfold Obligations.Crc16FieldTest
  exact ⟨by decide +kernel, by decide +kernel, foldl_crc16Byte_self 0xCA6F, foldl_crc16Byte_self⟩

/-- Settles O42: the mirror image of a turn gives that of a byte; the check values by evaluation. -/
theorem crc32VariantsMirror : Obligations.Crc32VariantsMirror := by
  unfold Obligations.Crc32VariantsMirror
  exact ⟨crc32Poly_eq_reverse, crc32Byte_eq_mirror, by decide +kernel, by decide +kernel⟩

end Sys2Proof.Machine
end

section
/-! PROOFS. The samples and the histogram (spec/45_flux_analyser.md R381, R382): FLUX.PUSH appends, the bins
of HIST.BUILD are those of the samples' intervals, and the order of the samples does not matter. -/

namespace Sys2Proof.Machine

open Sys2Proof.Config

/-! ### Pushing a sample (R381) -/

/-- Below FLUX_DEPTH the count does not wrap: FLUX_DEPTH is at most 2^24 (R6). -/
theorem fluxcnt_succ_toNat {s : State} (hl : s.params.legal = true)
    (hd : s.fluxcnt.toNat < s.params.fluxDepth) : (s.fluxcnt + 1).toNat = s.fluxcnt.toNat + 1 := by
  obtain ⟨_, ⟨_, hmax⟩, _⟩ := legal_iff.1 hl
  exact (BitVec.toNat_add _ _).trans (Nat.mod_eq_of_lt (by simp; omega))

/-- A sample written behind the last one is the new last one. -/
theorem fluxSamples_push {s t : State} {v : Word} (hc : t.fluxcnt.toNat = s.fluxcnt.toNat + 1)
    (hm : t.mem = fluxWrite s.mem s.fluxcnt.toNat v) : fluxSamples t = fluxSamples s ++ [v.toNat] := by
  simp only [fluxSamples, hc, hm, List.range_succ, List.map_append, List.map_singleton,
    fluxRead_fluxWrite, if_true]
  congr 1
  refine List.map_congr_left fun j hj => ?_
  rw [if_neg (List.mem_range.1 hj).ne]

/-- Settles O43: the accepted case of FLUX.PUSH, with the law of the flux memory for the samples. -/
theorem fluxPushAppends : Obligations.FluxPushAppends := by
  unfold Obligations.FluxPushAppends
  intro s hl hd
  obtain ⟨t, ht⟩ := exec_next .fluxPush s
  rcases exec_fluxPush_cases ht with ⟨hfull, _⟩ | ⟨_, rfl⟩
  · exact absurd hfull hd.ne
  · exact ⟨_, ht, rfl, fun i => fluxRead_fluxWrite .., fluxSamples_push (fluxcnt_succ_toNat hl hd) rfl⟩

/-! ### The interval of a bin (R382) -/

/-- A sample no less than `mn` falls in bin `i` exactly when it lies in the bin's interval. -/
theorem bin_eq_iff {w mn v i : Nat} (hw : 0 < w) (hv : mn ≤ v) :
    (v - mn) / w = i ↔ mn + i * w ≤ v ∧ v < mn + (i + 1) * w := by
  rw [Nat.div_eq_iff hw, Nat.add_mul]
  omega

theorem bin_ge_iff {w mn v n : Nat} (hw : 0 < w) (hv : mn ≤ v) :
    ¬(v - mn) / w < n ↔ mn + n * w ≤ v := by
  rw [Nat.not_lt, Nat.le_div_iff_mul_le hw]
  omega

theorem binSamples_oor (nbins w mn : Nat) (l : List Nat) :
    (binSamples nbins w mn l).oor = (l.filter fun v => ¬(v - mn) / w < nbins).length := by
  induction l using List.reverseRecOn with
  | nil => rfl
  | append_singleton l v ih =>
    rw [binSamples_concat]
    by_cases hv : (v - mn) / w < nbins
    · rw [binSample_inRange hv, List.filter_append]
      simp [ih, hv]
    · rw [binSample_outOfRange hv, List.filter_append]
      simp [ih, not_lt.1 hv]

/-- Choosing among the samples is choosing among their indices. -/
theorem filter_fluxSamples (s : State) (p : Nat → Bool) :
    (fluxSamples s).filter p =
      ((List.range s.fluxcnt.toNat).filter fun j => p (fluxRead s.mem j).toNat).map
        fun j => (fluxRead s.mem j).toNat :=
  List.filter_map

theorem fluxSamples_ne_nil {s : State} (hc : s.fluxcnt ≠ 0) : fluxSamples s ≠ [] := fun hnil =>
  hc (BitVec.eq_of_toNat_eq ((fluxSamples_length s).symm.trans (congrArg List.length hnil)))

theorem leastSample_fluxSamples_le {s : State} (hc : s.fluxcnt ≠ 0) {j : Nat} (hj : j < s.fluxcnt.toNat) :
    leastSample (fluxSamples s) ≤ (fluxRead s.mem j).toNat :=
  (leastSample_spec (fluxSamples_ne_nil hc)).2 _ (List.mem_map_of_mem (List.mem_range.2 hj))

/-- The samples of bin `i`, by index: those in the bin's interval. -/
theorem stateBin_eq_map {s : State} {w : Nat} (hw : 0 < w) (hc : s.fluxcnt ≠ 0) (i : Nat) :
    stateBin w s i =
      ((List.range s.fluxcnt.toNat).filter fun j =>
        leastSample (fluxSamples s) + i * w ≤ (fluxRead s.mem j).toNat ∧
          (fluxRead s.mem j).toNat < leastSample (fluxSamples s) + (i + 1) * w).map
        fun j => (fluxRead s.mem j).toNat := by
  rw [stateBin, samplesOfBin, filter_fluxSamples]
  congr 1
  refine List.filter_congr fun j hj => ?_
  exact decide_eq_decide.2 (bin_eq_iff hw (leastSample_fluxSamples_le hc (List.mem_range.1 hj)))

/-- The samples beyond the bin memory, by index. -/
theorem binSamples_oor_fluxSamples {s : State} {w : Nat} (hw : 0 < w) (hc : s.fluxcnt ≠ 0) (n : Nat) :
    (binSamples n w (leastSample (fluxSamples s)) (fluxSamples s)).oor =
      ((List.range s.fluxcnt.toNat).filter fun j =>
        leastSample (fluxSamples s) + n * w ≤ (fluxRead s.mem j).toNat).length := by
  rw [binSamples_oor, filter_fluxSamples, List.length_map]
  congr 1
  refine List.filter_congr fun j hj => ?_
  exact decide_eq_decide.2 (bin_ge_iff hw (leastSample_fluxSamples_le hc (List.mem_range.1 hj)))

/-! ### The results of HIST.BUILD (R382) -/

section
variable {s : State} (hl : s.params.legal = true) (hd : s.fluxcnt.toNat ≤ s.params.fluxDepth) (w : Nat)
include hl hd

theorem fluxSamples_length_le : (fluxSamples s).length ≤ 2 ^ 24 := by
  obtain ⟨_, ⟨_, hmax⟩, _⟩ := legal_iff.1 hl
  exact (fluxSamples_length s).trans_le (hd.trans hmax)

/-- A bin's count does not wrap, whatever the memories held before: there are at most 2^24 samples. -/
theorem binCntRead_histBuild (i : Nat) :
    (binCntRead (histBuild w s).mem i).toNat =
      if i < s.params.nbins then (stateBin w s i).length else 0 := by
  have hlen : (stateBin w s i).length ≤ 2 ^ 24 :=
    (samplesOfBin_length_le ..).trans (fluxSamples_length_le hl hd)
  have hread : binCntRead (histBuild w s).mem i =
      if i < s.params.nbins then BitVec.ofNat 32 (stateBin w s i).length else 0 :=
    binRead_cnt_binSamples ..
  rw [hread, apply_ite BitVec.toNat, BitVec.toNat_ofNat, Nat.mod_eq_of_lt (by omega)]
  rfl

/-- A bin's sum does not wrap: it adds up at most 2^24 samples of 32 bits in 64. -/
theorem binSumRead_histBuild (i : Nat) :
    (binSumRead (histBuild w s).mem i).toNat =
      if i < s.params.nbins then (stateBin w s i).sum else 0 := by
  have hlen : (stateBin w s i).length ≤ 2 ^ 24 :=
    (samplesOfBin_length_le ..).trans (fluxSamples_length_le hl hd)
  have hsum : (stateBin w s i).sum ≤ (stateBin w s i).length * (2 ^ 32 - 1) :=
    samplesOfBin_sum_le (fluxSamples_le s) i
  have hread : binSumRead (histBuild w s).mem i =
      if i < s.params.nbins then BitVec.ofNat 64 (stateBin w s i).sum else 0 :=
    binRead_sum_binSamples ..
  rw [hread, apply_ite BitVec.toNat, BitVec.toNat_ofNat, Nat.mod_eq_of_lt (by omega)]
  rfl

theorem histBuild_histOor :
    (histBuild w s).histOor.toNat =
      (binSamples s.params.nbins w (leastSample (fluxSamples s)) (fluxSamples s)).oor := by
  have hle := binSamples_oor_le s.params.nbins w (leastSample (fluxSamples s)) (fluxSamples s)
  have hlen := fluxSamples_length_le hl hd
  exact (BitVec.toNat_ofNat _ _).trans (Nat.mod_eq_of_lt (by omega))

/-- R382: STATUS.HIST_OOR is set exactly when HIST_OOR is not 0. -/
theorem histBuild_status :
    (histBuild w s).status =
      if (histBuild w s).histOor = 0 then s.status else s.status ||| 0x40 := by
  have hoor := histBuild_histOor hl hd w
  by_cases hz : (histBuild w s).histOor = 0
  · rw [hz] at hoor
    rw [if_pos hz]
    exact if_neg (by simp [← hoor])
  · have hpos : 0 < (binSamples s.params.nbins w (leastSample (fluxSamples s)) (fluxSamples s)).oor :=
      Nat.pos_of_ne_zero fun h0 => hz (BitVec.eq_of_toNat_eq (hoor.trans h0))
    rw [if_neg hz]
    exact if_pos hpos

end

/-- Settles O44: the accepted case of HIST.BUILD, with the bins and the out-of-range count as the samples
of their intervals. -/
theorem histBuildBins : Obligations.HistBuildBins := by
  unfold Obligations.HistBuildBins
  intro s hl hd hc hw n w x
  obtain ⟨t, ht⟩ := exec_next .histBuild s
  rcases exec_histBuild_cases ht with ⟨h0, _⟩ | ⟨_, h0, _⟩ | ⟨_, _, rfl⟩
  · exact absurd h0 hw
  · exact absurd h0 hc
  have hpos : 0 < w := Nat.pos_of_ne_zero fun h0 => hw (BitVec.eq_of_toNat_eq h0)
  have hne := fluxSamples_ne_nil hc
  have index : ∀ v ∈ fluxSamples s, ∃ j, j < n ∧ x j = v := fun v hv => by
    obtain ⟨j, hj, rfl⟩ := List.mem_map.1 hv
    exact ⟨j, List.mem_range.1 hj, rfl⟩
  have sample : ∀ j, j < n → x j ∈ fluxSamples s := fun j hj =>
    List.mem_map_of_mem (List.mem_range.2 hj)
  obtain ⟨hleast, hle⟩ := leastSample_spec hne
  obtain ⟨hgreatest, hge⟩ := greatestSample_spec hne
  refine ⟨_, leastSample (fluxSamples s), greatestSample (fluxSamples s), ht,
    fun j hj => ⟨hle _ (sample j hj), hge _ (sample j hj)⟩, index _ hleast, index _ hgreatest, ?_,
    fun i => ⟨?_, ?_⟩, ?_⟩
  · rw [← histBuild_status hl hd]
    rfl
  · rw [binCntRead_histBuild hl hd, stateBin_eq_map hpos hc, List.length_map]
  · rw [binSumRead_histBuild hl hd, stateBin_eq_map hpos hc]
  · rw [histBuild_histOor hl hd, binSamples_oor_fluxSamples hpos hc]

/-! ### The order of the samples (R381 corner case 3) -/

theorem Bins.eq_of_fields {b b' : Bins} (hcnt : b.cnt = b'.cnt) (hsum : b.sum = b'.sum)
    (hoor : b.oor = b'.oor) : b = b' := by
  obtain ⟨cnt, sum, oor⟩ := b
  obtain ⟨cnt', sum', oor'⟩ := b'
  simp only at hcnt hsum hoor
  rw [hcnt, hsum, hoor]

section
variable {l l' : List Nat} (h : l.Perm l')
include h

theorem leastSample_perm : leastSample l = leastSample l' := by
  rcases eq_or_ne l [] with rfl | hl
  · rw [List.nil_perm.1 h]
  · have hl' : l' ≠ [] := fun hnil => hl (List.perm_nil.1 (hnil ▸ h))
    obtain ⟨hmem, hle⟩ := leastSample_spec hl
    obtain ⟨hmem', hle'⟩ := leastSample_spec hl'
    exact le_antisymm (hle _ (h.mem_iff.2 hmem')) (hle' _ (h.mem_iff.1 hmem))

theorem greatestSample_perm : greatestSample l = greatestSample l' :=
  h.foldl_eq 0

/-- Bins in canonical form are what their entries read as, and these are sums over the samples of a bin. -/
theorem binSamples_perm (nbins w mn : Nat) : binSamples nbins w mn l = binSamples nbins w mn l' := by
  obtain ⟨⟨hrc, hzc⟩, hrs, hzs⟩ := binSamples_canonical nbins w mn l
  obtain ⟨⟨hrc', hzc'⟩, hrs', hzs'⟩ := binSamples_canonical nbins w mn l'
  have hbin : ∀ i, (samplesOfBin w mn l i).Perm (samplesOfBin w mn l' i) := fun i => h.filter _
  have hcnt : (binSamples nbins w mn l).cnt = (binSamples nbins w mn l').cnt :=
    bins_ext hrc hzc hrc' hzc' fun i => by
      rw [binRead_cnt_binSamples, binRead_cnt_binSamples, (hbin i).length_eq]
  have hsum : (binSamples nbins w mn l).sum = (binSamples nbins w mn l').sum :=
    bins_ext hrs hzs hrs' hzs' fun i => by
      rw [binRead_sum_binSamples, binRead_sum_binSamples, (hbin i).sum_eq]
  have hoor : (binSamples nbins w mn l).oor = (binSamples nbins w mn l').oor := by
    rw [binSamples_oor, binSamples_oor, (h.filter _).length_eq]
  exact Bins.eq_of_fields hcnt hsum hoor

end

/-- HIST.BUILD on a flux memory that holds the same samples in another order. -/
theorem histBuild_perm {s : State} {flux : List (Nat × BitVec 32)}
    (h : (fluxSamples s).Perm (fluxSamples { s with mem := { s.mem with flux := flux } })) (w : Nat) :
    histBuild w { s with mem := { s.mem with flux := flux } } =
      { histBuild w s with mem := { (histBuild w s).mem with flux := flux } } := by
  simp only [histBuild, ← leastSample_perm h, ← greatestSample_perm h, ← binSamples_perm h]
  rfl

/-- Settles O45: the checks of HIST.BUILD read no sample, and its results are the same for a
permutation. -/
theorem histBuildIgnoresOrder : Obligations.HistBuildIgnoresOrder := by
  unfold Obligations.HistBuildIgnoresOrder
  intro s flux s' h
  simp only [exec, execHistBuild]
  by_cases hw : s.histW = 0
  · exact ⟨_, if_pos hw, if_pos hw⟩
  by_cases hc : s.fluxcnt = 0
  · exact ⟨_, by rw [if_neg hw, if_pos hc], (if_neg hw).trans (if_pos hc)⟩
  · refine ⟨_, by rw [if_neg hw, if_neg hc], ?_⟩
    rw [← histBuild_perm h]
    exact (if_neg hw).trans (if_neg hc)

end Sys2Proof.Machine
end

section
/-! PROOFS. The classification, the quantiser and the checks of the analyser's commands
(spec/45_flux_analyser.md R381 to R390, R442 item 4): the model's integer comparisons and roundings are those
of exact ratios, and each command's own check rejects it. -/

namespace Sys2Proof.Machine

open Sys2Proof.Config

/-! ### The quantiser (R390) -/

/-- The nearest whole number of cells: at most half a cell away on either side, but at least 1. -/
theorem fluxCells_nearest (t : Nat) {c : Nat} (hc : 0 < c) :
    (fluxCells t c = 1 ∨ (2 * fluxCells t c - 1) * c ≤ 2 * t) ∧ 2 * t < (2 * fluxCells t c + 1) * c := by
  unfold fluxCells
  set q := (2 * t + c) / (2 * c) with hq
  have hle : 2 * (q * c) ≤ 2 * t + c := by
    have := Nat.div_mul_le_self (2 * t + c) (2 * c)
    rw [← hq] at this
    linarith
  have hlt : 2 * t + c < 2 * (q * c) + 2 * c := by
    have := Nat.lt_div_mul_add (a := 2 * t + c) (b := 2 * c) (by omega)
    rw [← hq] at this
    linarith
  rcases Nat.eq_zero_or_pos q with h0 | hpos
  · rw [h0] at hlt ⊢
    exact ⟨.inl rfl, by simp; omega⟩
  · rw [max_eq_right hpos, Nat.sub_mul, Nat.add_mul, Nat.mul_assoc]
    exact ⟨.inr (by omega), by omega⟩

theorem fluxCells_lt {t : Nat} (ht : t < 2 ^ 32) (c : Nat) (hc : 0 < c) : fluxCells t c < 2 ^ 32 := by
  refine max_lt (by decide) (Nat.div_lt_of_lt_mul ?_)
  nlinarith

/-- Settles O48: the accepted case of FLUX.CELLS; the count fits DOUT0. -/
theorem fluxCellsNearest : Obligations.FluxCellsNearest := by
  unfold Obligations.FluxCellsNearest
  intro s hne t c
  have hc : 0 < c := Nat.pos_of_ne_zero fun h0 => hne (BitVec.eq_of_toNat_eq h0)
  obtain ⟨r, hr⟩ := exec_next .fluxCells s
  rcases exec_fluxCells_cases hr with ⟨h0, _⟩ | ⟨_, rfl⟩
  · exact absurd h0 hne
  · refine ⟨BitVec.ofNat 32 (fluxCells t c), hr, ?_⟩
    rw [BitVec.toNat_ofNat, Nat.mod_eq_of_lt (fluxCells_lt s.din0.isLt c hc)]
    exact ⟨one_le_fluxCells t c, fluxCells_nearest t hc⟩

/-! ### Exact ratios (R386, R388) -/

section
variable {a : Nat} (ha : a ≠ 0) (m b : Nat)
include ha

theorem le_ratio_iff : (m : ℚ) / 10 ≤ (b : ℚ) / a ↔ m * a ≤ 10 * b := by
  rw [div_le_div_iff₀ (by norm_num) (by positivity), mul_comm (b : ℚ)]
  exact_mod_cast Iff.rfl

theorem ratio_le_iff : (b : ℚ) / a ≤ (m : ℚ) / 10 ↔ 10 * b ≤ m * a := by
  rw [div_le_div_iff₀ (by positivity) (by norm_num), mul_comm (b : ℚ)]
  exact_mod_cast Iff.rfl

/-- The label's numerator and denominator are those of the position in half-T units, plus a half (R388). -/
theorem peakLabel_toNat : (peakLabel a b).toNat = min 255 ⌊2 * (b : ℚ) / a + 1 / 2⌋₊ := by
  have hfrac : 2 * (b : ℚ) / a + 1 / 2 = ((4 * b + a : ℕ) : ℚ) / ((2 * a : ℕ) : ℚ) := by
    push_cast
    field_simp
    ring
  rw [hfrac, Nat.floor_div_eq_div]
  exact (BitVec.toNat_ofNat _ _).trans (Nat.mod_eq_of_lt (lt_of_le_of_lt (min_le_left _ _) (by decide)))

end

theorem le_half_iff (m a : Nat) : (m : ℚ) ≤ (a : ℚ) / 2 ↔ 2 * m ≤ a := by
  rw [le_div_iff₀ (by norm_num), mul_comm]
  exact_mod_cast Iff.rfl

theorem half_le_iff (m a : Nat) : (a : ℚ) / 2 ≤ (m : ℚ) ↔ a ≤ 2 * m := by
  rw [div_le_iff₀ (by norm_num), mul_comm]
  exact_mod_cast Iff.rfl

/-! ### Kind and rate (R386) -/

theorem classKind_eq_mfm_iff (n p1 p2 p3 : Nat) :
    classKind n p1 p2 p3 = .mfm ↔
      3 ≤ n ∧ 13 * p1 ≤ 10 * p2 ∧ 10 * p2 ≤ 17 * p1 ∧ 18 * p1 ≤ 10 * p3 ∧ 10 * p3 ≤ 22 * p1 := by
  unfold classKind
  split_ifs <;> simp_all

/-- The two tests exclude each other: they ask for different numbers of peaks. -/
theorem classKind_eq_fm_iff (n p1 p2 p3 : Nat) :
    classKind n p1 p2 p3 = .fm ↔ n = 2 ∧ 18 * p1 ≤ 10 * p2 ∧ 10 * p2 ≤ 22 * p1 := by
  unfold classKind
  split_ifs with hmfm hfm
  · have : n ≠ 2 := by omega
    simp [this]
  · simp [hfm]
  · simp [hfm]

theorem classRate_eq_hd_iff (kind : EncKind) (p1 : Nat) :
    classRate kind p1 = .mfmHd500k ↔ kind = .mfm ∧ 1500 ≤ p1 ∧ p1 ≤ 2500 := by
  unfold classRate
  split_ifs <;> simp_all

/-- The two ranges are disjoint. -/
theorem classRate_eq_dd_iff (kind : EncKind) (p1 : Nat) :
    classRate kind p1 = .mfmDd250k ↔ kind = .mfm ∧ 3000 ≤ p1 ∧ p1 ≤ 5000 := by
  unfold classRate
  split_ifs with hhd hdd
  · have : ¬3000 ≤ p1 := by omega
    simp [this]
  · simp [hdd]
  · simp [hdd]

/-- The tests of the kind, as ratios to the shortest peak. -/
theorem classKind_ratios {p1 : Nat} (h : p1 ≠ 0) (n p2 p3 : Nat) :
    (classKind n p1 p2 p3 = .mfm ↔
      3 ≤ n ∧ 13 / 10 ≤ (p2 : ℚ) / p1 ∧ (p2 : ℚ) / p1 ≤ 17 / 10 ∧ 18 / 10 ≤ (p3 : ℚ) / p1 ∧
        (p3 : ℚ) / p1 ≤ 22 / 10) ∧
    (classKind n p1 p2 p3 = .fm ↔ n = 2 ∧ 18 / 10 ≤ (p2 : ℚ) / p1 ∧ (p2 : ℚ) / p1 ≤ 22 / 10) := by
  have lower (m b : Nat) := le_ratio_iff h m b
  have upper (m b : Nat) := ratio_le_iff h m b
  rw [classKind_eq_mfm_iff, classKind_eq_fm_iff, ← lower 13, ← upper 17, ← lower 18,
    ← upper 22, ← lower 18, ← upper 22]
  exact ⟨Iff.rfl, Iff.rfl⟩

/-- The ranges of the rate, in halves of the shortest peak. -/
theorem classRate_halves (kind : EncKind) (p1 : Nat) :
    (classRate kind p1 = .mfmDd250k ↔ kind = .mfm ∧ 1500 ≤ (p1 : ℚ) / 2 ∧ (p1 : ℚ) / 2 ≤ 2500) ∧
    (classRate kind p1 = .mfmHd500k ↔ kind = .mfm ∧ 750 ≤ (p1 : ℚ) / 2 ∧ (p1 : ℚ) / 2 ≤ 1250) := by
  rw [classRate_eq_dd_iff, classRate_eq_hd_iff]
  exact ⟨and_congr_right fun _ => and_congr (le_half_iff 1500 p1).symm (half_le_iff 2500 p1).symm,
    and_congr_right fun _ => and_congr (le_half_iff 750 p1).symm (half_le_iff 1250 p1).symm⟩

/-- Settles O47: the two cases of CLASSIFY, each integer comparison read as one of ratios. -/
theorem classifyReading : Obligations.ClassifyReading := by
  unfold Obligations.ClassifyReading
  intro s hv n p
  obtain ⟨t, ht⟩ := exec_next .classify s
  rcases exec_classify_cases ht with ⟨h0, _⟩ | ⟨_, rfl⟩
  · cases hv.symm.trans h0
  have hp : ∀ k : Fin 16, p k = (peakPos s k : ℚ) := fun k => by rw [peakPos_of_lt s k.isLt]; rfl
  have hzero : p 0 = 0 ↔ peakPos s 0 = 0 := by rw [hp 0]; exact Nat.cast_eq_zero
  have hpos : BitVec.ofNat 32 (peakPos s 0) = s.peaks[0].pos := by
    rw [peakPos_of_lt s (by decide), BitVec.ofNat_toNat, BitVec.setWidth_eq]
  have entry (f) (k : Fin 16) :
      (relabel f s.peaks)[k] = { s.peaks[k] with lbl := f k s.peaks[k].pos s.peaks[k].lbl } :=
    relabel_getElem f s.peaks k k.isLt
  refine ⟨_, ht, ?_⟩
  rcases classifyPeaks_cases s with ⟨hnone, he⟩ | ⟨hn, h1, kind, hkind, he⟩ <;> rw [he]
  · refine ⟨rfl, fun k => ?_, fun _ => ⟨rfl, fun k => ?_⟩, fun hn h1 => ?_⟩
    · rw [entry]; exact ⟨rfl, rfl⟩
    · rw [entry]
    · exact absurd (hnone.imp_right hzero.2) (not_or.2 ⟨hn, h1⟩)
  · obtain ⟨hmfm, hfm⟩ := classKind_ratios h1 s.peakN.toNat (peakPos s 1) (peakPos s 2)
    obtain ⟨hdd, hhd⟩ := classRate_halves kind (peakPos s 0)
    refine ⟨rfl, fun k => ?_, fun hnone => ?_, fun _ _ => ?_⟩
    · rw [entry]; exact ⟨rfl, rfl⟩
    · exact absurd (hnone.imp_right hzero.1) (not_or.2 ⟨hn, h1⟩)
    rw [hp 0, hp 1, hp 2]
    refine ⟨hkind ▸ hmfm, hkind ▸ hfm, ?_, hdd, hhd, fun k => ⟨fun hk => ?_, fun hk => ?_⟩⟩
    · rw [← hpos]
    · rw [entry, if_pos hk, peakLabel_toNat h1]
      rfl
    · rw [entry, if_neg hk.not_gt]

/-! ### The commands' own checks (R442 item 4) -/

/-- Settles O49: each check is the outermost `if` of its command, and `bad`, `seq` and `full` are
`reject` with the codes 2, 3 and 4. -/
theorem ownChecksReject : Obligations.OwnChecksReject := by
  unfold Obligations.OwnChecksReject
  intro s bad seq full
  refine ⟨fun h => ?_, fun h => ?_, fun hw hc => ?_, fun h => ?_, fun h => ?_, fun h => ?_⟩
  · exact if_pos h
  · exact if_pos h
  · exact (if_neg hw).trans (if_pos hc)
  · exact if_neg (Bool.eq_false_iff.1 h)
  · exact if_neg (Bool.eq_false_iff.1 h)
  · exact if_pos h

end Sys2Proof.Machine
end

section
/-! PROOFS. The validity flags (spec/10_state.md R59, spec/45_flux_analyser.md R394): what each command that
was not rejected does to them, and that nothing else but hardware reset does anything. -/

namespace Sys2Proof.Machine

open Sys2Proof.Config

/-- hist_valid, peaks_valid and class_valid (R59). -/
def validityFlags (s : State) := (s.histValid, s.peaksValid, s.classValid)

theorem validityFlags_of_analyserView {s t : State} (h : analyserView t = analyserView s) :
    validityFlags t = validityFlags s :=
  congrArg (fun v => v.2.2.2.2.1) h

/-- R394's table: the flags after an accepted command. -/
def flagsAfter (s : State) : Instr → Bool × Bool × Bool
  | .fluxClr => (false, false, false)
  | .srst m => if m.getLsbD 7 then (false, false, false) else validityFlags s
  | .fluxPush => (false, false, false)
  | .histBuild => (true, false, false)
  | .peakFind => (true, true, false)
  | .classify => (s.histValid, true, true)
  | _ => validityFlags s

/-- A command that reports REJECTED is a rejection: no other one emits it. -/
theorem exec_rejected {i : Instr} {s t : State} (h : exec i s = .next t)
    (hr : t.evt.getLsbD 7 = true) : ∃ c, t = reject c s := by
  rcases exec_report_cases h with hc | ⟨e, hp, hv⟩ | ⟨_, hv⟩
  · exact hc
  · have hevt : t.evt = e.pack := congrArg Prod.fst hv
    rw [hevt, pack_rejected, hp.accepted] at hr
    cases hr
  · have hevt : t.evt = 0 := congrArg Prod.fst hv
    rw [hevt] at hr
    cases hr

theorem reject_rejected (c : ErrorCode) (s : State) : (reject c s).evt.getLsbD 7 = true := by
  show (0x80 : BitVec 8).getLsbD 7 = true
  decide

theorem softReset_validityFlags (mask : BitVec 8) (s : State) :
    validityFlags (softReset mask s) = if mask.getLsbD 7 then (false, false, false) else validityFlags s := by
  obtain ⟨r, hr, hv⟩ := softReset_analyserView mask s
  rw [hr, srstLine_view validityFlags, validityFlags_of_analyserView hv]
  rfl

/-- R394: an accepted command changes the flags as its row of the table says. -/
theorem exec_validityFlags {i : Instr} {s t : State} (h : exec i s = .next t)
    (ha : t.evt.getLsbD 7 = false) :
    validityFlags t = flagsAfter s i ∧ (i = .peakFind → s.histValid = true) ∧
      (i = .classify → s.peaksValid = true) := by
  have accepted {c : ErrorCode} : t ≠ reject c s := fun ht => by
    rw [ht, reject_rejected] at ha
    cases ha
  cases i
  case srst mask =>
    obtain rfl := Host.Outcome.next.inj h
    exact ⟨softReset_validityFlags mask (clearEvt s), by simp, by simp⟩
  case fluxClr => exact ⟨Host.Outcome.next.inj h ▸ rfl, by simp, by simp⟩
  case fluxPush =>
    rcases exec_fluxPush_cases h with ⟨_, ht⟩ | ⟨_, rfl⟩
    · exact absurd ht accepted
    · exact ⟨rfl, by simp, by simp⟩
  case histBuild =>
    rcases exec_histBuild_cases h with ⟨_, ht⟩ | ⟨_, _, ht⟩ | ⟨_, _, rfl⟩
    · exact absurd ht accepted
    · exact absurd ht accepted
    · exact ⟨rfl, by simp, by simp⟩
  case peakFind =>
    rcases exec_peakFind_cases h with ⟨_, ht⟩ | ⟨hv, rfl⟩
    · exact absurd ht accepted
    · exact ⟨by simp [validityFlags, flagsAfter, hv], fun _ => hv, by simp⟩
  case classify =>
    rcases exec_classify_cases h with ⟨_, ht⟩ | ⟨hv, rfl⟩
    · exact absurd ht accepted
    · refine ⟨?_, by simp, fun _ => hv⟩
      rcases classifyPeaks_cases s with ⟨_, he⟩ | ⟨_, _, _, _, he⟩ <;> rw [he] <;>
        simp [validityFlags, flagsAfter, hv]
  all_goals
    refine ⟨?_, by simp, by simp⟩
    rw [exec_frame (by simp) h]
    rfl

/-- A command word that was rejected, as a word or by the command's own check, leaves the flags. -/
theorem runCommand_rejected_validityFlags {w : Word} {s t : State} (h : runCommand w s = .next t)
    (hr : t.evt.getLsbD 7 = true) : validityFlags t = validityFlags s := by
  cases hd : decode w with
  | ok i =>
    obtain ⟨c, rfl⟩ := exec_rejected (runCommand_ok hd s ▸ h) hr
    rfl
  | error e =>
    obtain rfl := Host.Outcome.next.inj ((runCommand_error hd s).symm.trans h)
    rfl

/-- Only CMD is the command register (R100). -/
theorem accessReg_eq_cmd {off : BitVec 16} {size : Nat} (h : accessReg off size = some .cmd) :
    off = 0x010 ∧ size = 4 := by
  obtain ⟨hsize, hoff⟩ := accessReg_eq_some h
  exact ⟨BitVec.eq_of_toNat_eq hoff.symm, hsize⟩

/-- R394: a read, a write of another register and a faulting access leave the flags. -/
theorem serveEvent_validityFlags {e : HostEvent} {s t : State} (h : serveEvent e s = .next t)
    (hcmd : ∀ w, e ≠ .access (.write 0x010 4 w)) (hreset : e ≠ .reset) :
    validityFlags t = validityFlags s := by
  cases e with
  | reset => exact absurd rfl hreset
  | accessInReset a => cases h
  | access a =>
    cases a with
    | read off size =>
      obtain rfl := Host.Outcome.next.inj h
      unfold serveRead
      split <;> rfl
    | write off size v =>
      rcases serveWrite_cases off size v s with he | ⟨hr, _⟩ | ⟨_, he⟩ | ⟨r, _, _, he⟩
      · exact Host.Outcome.next.inj (he.symm.trans h) ▸ rfl
      · obtain ⟨rfl, rfl⟩ := accessReg_eq_cmd hr
        exact absurd rfl (hcmd v)
      · exact Host.Outcome.next.inj (he.symm.trans h) ▸ rfl
      · rw [← Host.Outcome.next.inj (he.symm.trans h)]
        exact validityFlags_of_analyserView (analyserView_commandView.store r v s)

/-- Settles O52, by the event served: hardware reset, an accepted or rejected write of CMD, or any other
access. -/
theorem validityFlagTable : Obligations.ValidityFlagTable := by
  unfold Obligations.ValidityFlagTable
  intro s t e rest hp hstep flags
  rw [step_cons hp] at hstep
  set r := takeEvent rest s
  refine ⟨?_, ?_, ?_, serveEvent_validityFlags (s := r) hstep⟩
  · rintro rfl
    show validityFlags t = (false, false, false)
    obtain rfl := Host.Outcome.next.inj hstep
    rfl
  · rintro w i rfl hd ha
    have hexec : exec i r = .next t := (runCommand_ok hd r).symm.trans hstep
    obtain ⟨hflags, hneeds⟩ := exec_validityFlags hexec ha
    refine ⟨hflags.trans ?_, hneeds⟩
    cases i <;> rfl
  · rintro w rfl hr
    exact runCommand_rejected_validityFlags (w := w) (s := r) hstep hr

end Sys2Proof.Machine
end

section
/-! PROOFS. The peaks (spec/45_flux_analyser.md R384). The separation test is run on bins instead of peaks
(`separate`), since two bins may have one position; the table is the image of the bins it accepts. -/

namespace Sys2Proof.Machine

open Sys2Proof.Config

/-! ### The window of a bin -/

theorem mem_window {nb i j : Nat} (hi : i < nb) : j ∈ window nb i ↔ j < nb ∧ i ≤ j + 2 ∧ j ≤ i + 2 := by
  simp only [window, List.mem_range'_1]
  omega

/-- The window of bin `i`: the bins in use at most two away. -/
theorem window_perm {nb i : Nat} (hi : i < nb) :
    (window nb i).Perm ((List.range nb).filter fun j => i ≤ j + 2 ∧ j ≤ i + 2) := by
  refine (List.perm_ext_iff_of_nodup List.nodup_range' (List.nodup_range.filter _)).2 fun j => ?_
  refine (mem_window hi).trans ?_
  rw [List.mem_filter, List.mem_range, decide_eq_true_iff]

theorem window_length_le (nb i : Nat) : (window nb i).length ≤ 5 := by
  simp only [window, List.length_range']
  omega

/-- The number of samples in the window of bin `i`. -/
theorem window_cnt_sum {nb i : Nat} (hi : i < nb) (m : Memory) :
    ((window nb i).map fun j => (binCntRead m j).toNat).sum =
      (((List.range nb).filter fun j => i ≤ j + 2 ∧ j ≤ i + 2).map (cntAt m nb)).sum := by
  have hcnt : ∀ j ∈ window nb i, (binCntRead m j).toNat = cntAt m nb j := fun j hj =>
    (if_pos ((mem_window hi).1 hj).1).symm
  rw [List.map_congr_left hcnt, ((window_perm hi).map _).sum_eq]

/-- The sum of the samples in the window of bin `i`. -/
theorem window_tot_sum {nb i : Nat} (hi : i < nb) (m : Memory) :
    ((window nb i).map fun j => (binSumRead m j).toNat).sum =
      (((List.range nb).filter fun j => i ≤ j + 2 ∧ j ≤ i + 2).map fun j =>
        (binSumRead m j).toNat).sum :=
  ((window_perm hi).map _).sum_eq

/-! ### The candidates in the order offered -/

/-- Bin `i` is offered to the separation test before bin `j` (R384, R6 PEAK_ORDER). -/
def OfferedBefore (order : PeakOrder) (m : Memory) (nb i j : Nat) : Prop :=
  match order with
  | .ascending => i < j
  | .byCount => cntAt m nb j < cntAt m nb i ∨ cntAt m nb j = cntAt m nb i ∧ i < j

theorem mem_candidates {order : PeakOrder} {m : Memory} {nb thr i : Nat} :
    i ∈ candidates order m nb thr ↔ i < nb ∧ isCandidate m nb thr (gmax m nb) i = true := by
  cases order <;> simp [candidates]

theorem candidates_nodup (order : PeakOrder) (m : Memory) (nb thr : Nat) :
    (candidates order m nb thr).Nodup := by
  have hc := (List.nodup_range (n := nb)).filter (isCandidate m nb thr (gmax m nb))
  cases order with
  | ascending => exact hc
  | byCount => exact (List.perm_insertionSort _ _).nodup_iff.2 hc

/-- The sort is stable: a bin inserted before bins of higher index goes before those of its own count. -/
theorem orderedInsert_offered {m : Memory} {nb a : Nat} {l : List Nat}
    (hl : l.Pairwise (OfferedBefore .byCount m nb)) (ha : ∀ b ∈ l, a < b) :
    (l.orderedInsert (fun i j => cntAt m nb j ≤ cntAt m nb i) a).Pairwise
      (OfferedBefore .byCount m nb) := by
  induction l with
  | nil => simp
  | cons b l ih =>
    obtain ⟨hb, hl'⟩ := List.pairwise_cons.1 hl
    have hab : a < b := ha b (by simp)
    rw [List.orderedInsert_cons]
    split_ifs with hle
    · refine List.pairwise_cons.2 ⟨fun x hx => ?_, hl⟩
      have hx' : a < x := ha x hx
      rcases List.mem_cons.1 hx with rfl | hx
      · simp only [OfferedBefore]; omega
      · have := hb x hx
        simp only [OfferedBefore] at this ⊢
        omega
    · refine List.pairwise_cons.2 ⟨fun x hx => ?_, ih hl' fun x hx => ha x (by simp [hx])⟩
      rcases (List.mem_orderedInsert _).1 hx with rfl | hx
      · simp only [OfferedBefore]; omega
      · exact hb x hx

theorem insertionSort_offered {m : Memory} {nb : Nat} {l : List Nat} (hl : l.Pairwise (· < ·)) :
    (l.insertionSort fun i j => cntAt m nb j ≤ cntAt m nb i).Pairwise
      (OfferedBefore .byCount m nb) := by
  induction l with
  | nil => exact .nil
  | cons a l ih =>
    obtain ⟨ha, hl'⟩ := List.pairwise_cons.1 hl
    exact orderedInsert_offered (ih hl') fun b hb => ha b ((List.mem_insertionSort _).1 hb)

theorem candidates_offered (order : PeakOrder) (m : Memory) (nb thr : Nat) :
    (candidates order m nb thr).Pairwise (OfferedBefore order m nb) := by
  have hasc := (List.pairwise_lt_range (n := nb)).filter (isCandidate m nb thr (gmax m nb))
  cases order with
  | ascending => exact hasc
  | byCount => exact insertionSort_offered hasc

/-! ### The greatest count -/

theorem mul_gmax_lt_iff {m : Memory} {nb thr x : Nat} (hx : 0 < x) :
    thr * gmax m nb < x ↔ ∀ j, j < nb → thr * cntAt m nb j < x := by
  constructor
  · intro h j hj
    have hle : cntAt m nb j ≤ gmax m nb :=
      (foldl_max_ge _ 0).2 _ (List.mem_map_of_mem (List.mem_range.2 hj))
    exact (Nat.mul_le_mul_left thr hle).trans_lt h
  · intro h
    rcases foldl_max_mem ((List.range nb).map (cntAt m nb)) 0 with h0 | hmem
    · rw [gmax, h0, Nat.mul_zero]
      exact hx
    · obtain ⟨j, hj, hval⟩ := List.mem_map.1 hmem
      rw [gmax, ← hval]
      exact h j (List.mem_range.1 hj)

/-- The candidates' conditions, the threshold as a comparison with every bin in use. -/
theorem isCandidate_iff {m : Memory} {nb thr i : Nat} :
    isCandidate m nb thr (gmax m nb) i = true ↔
      0 < cntAt m nb i ∧ (i = 0 ∨ cntAt m nb (i - 1) < cntAt m nb i) ∧
        cntAt m nb (i + 1) ≤ cntAt m nb i ∧
        ∀ j, j < nb → thr * cntAt m nb j < cntAt m nb i * 100 := by
  simp only [isCandidate, Bool.and_eq_true, decide_eq_true_iff, and_assoc]
  refine and_congr_right fun hpos => and_congr ?_ (and_congr_right fun _ => mul_gmax_lt_iff (by omega))
  unfold cntLeft
  split_ifs with h0
  · subst h0
    simpa using hpos
  · simp [h0]

/-! ### The separation test, on bins -/

section
variable (maxPeaks sep : Nat) (f : Nat → Peak)

/-- One turn of the separation test: bin `i` is accepted if its peak is (`acceptPeak`). -/
def acceptBin (acc : List Nat) (i : Nat) : List Nat :=
  if acc.length < maxPeaks ∧ ∀ j ∈ acc, sep ≤ distance (f i).pos (f j).pos then acc ++ [i] else acc

/-- The bins accepted of those offered in the order `l`. -/
def separate (l : List Nat) : List Nat := l.foldl (acceptBin maxPeaks sep f) []

theorem separate_concat (l : List Nat) (i : Nat) :
    separate maxPeaks sep f (l ++ [i]) = acceptBin maxPeaks sep f (separate maxPeaks sep f l) i := by
  simp [separate]

theorem acceptPeak_map (acc : List Nat) (i : Nat) :
    acceptPeak maxPeaks sep (acc.map f) (f i) = (acceptBin maxPeaks sep f acc i).map f := by
  simp only [acceptPeak, acceptBin, List.length_map, List.forall_mem_map]
  split_ifs <;> simp

/-- The peaks accepted are those of the bins accepted. -/
theorem foldl_acceptPeak_map (l : List Nat) :
    (l.map f).foldl (acceptPeak maxPeaks sep) [] = (separate maxPeaks sep f l).map f := by
  induction l using List.reverseRecOn with
  | nil => rfl
  | append_singleton l i ih => simp [separate_concat, ih, acceptPeak_map]

/-- A bin is accepted exactly when the table has room and no accepted peak is too near. -/
theorem acceptBin_cases (acc : List Nat) (i : Nat) :
    (acc.length < maxPeaks ∧ (∀ j ∈ acc, sep ≤ distance (f i).pos (f j).pos) ∧
      acceptBin maxPeaks sep f acc i = acc ++ [i]) ∨
    ((maxPeaks ≤ acc.length ∨ ∃ j ∈ acc, distance (f i).pos (f j).pos < sep) ∧
      acceptBin maxPeaks sep f acc i = acc) := by
  unfold acceptBin
  split_ifs with h
  · exact .inl ⟨h.1, h.2, rfl⟩
  · refine .inr ⟨?_, rfl⟩
    by_contra hno
    push Not at hno
    exact h hno

theorem separate_sublist (l : List Nat) : (separate maxPeaks sep f l).Sublist l := by
  induction l using List.reverseRecOn with
  | nil => exact .slnil
  | append_singleton l i ih =>
    rw [separate_concat]
    rcases acceptBin_cases maxPeaks sep f (separate maxPeaks sep f l) i with ⟨_, _, he⟩ | ⟨_, he⟩ <;> rw [he]
    · exact ih.append_right _
    · exact ih.trans (List.sublist_append_left _ _)

theorem separate_length_le (l : List Nat) : (separate maxPeaks sep f l).length ≤ maxPeaks := by
  induction l using List.reverseRecOn with
  | nil => exact Nat.zero_le _
  | append_singleton l i ih =>
    rw [separate_concat]
    rcases acceptBin_cases maxPeaks sep f (separate maxPeaks sep f l) i with ⟨hl, _, he⟩ | ⟨_, he⟩ <;> rw [he]
    · simpa using hl
    · exact ih

theorem distance_comm (a b : Nat) : distance a b = distance b a := by
  unfold distance
  rw [max_comm, min_comm]

theorem separate_separated (l : List Nat) :
    (separate maxPeaks sep f l).Pairwise fun i j => sep ≤ distance (f i).pos (f j).pos := by
  induction l using List.reverseRecOn with
  | nil => exact .nil
  | append_singleton l i ih =>
    rw [separate_concat]
    rcases acceptBin_cases maxPeaks sep f (separate maxPeaks sep f l) i with ⟨_, hsep, he⟩ | ⟨_, he⟩ <;> rw [he]
    · refine List.pairwise_append.2 ⟨ih, List.pairwise_singleton _ _, fun j hj k hk => ?_⟩
      rw [List.mem_singleton.1 hk, distance_comm]
      exact hsep j hj
    · exact ih

/-- Why a bin offered was left out: when its turn came the table was full, or an accepted peak was too
near. What is full then stays as it is. -/
theorem separate_maximal {before : Nat → Nat → Prop} {l : List Nat} (hl : l.Pairwise before) {i : Nat}
    (hi : i ∈ l) (hout : i ∉ separate maxPeaks sep f l) :
    ((separate maxPeaks sep f l).length = maxPeaks ∧ ∀ j ∈ separate maxPeaks sep f l, before j i) ∨
    ∃ j ∈ separate maxPeaks sep f l, before j i ∧ distance (f i).pos (f j).pos < sep := by
  induction l using List.reverseRecOn with
  | nil => cases hi
  | append_singleton l v ih =>
    obtain ⟨hl', _, hv⟩ := List.pairwise_append.1 hl
    have hbefore : ∀ j ∈ separate maxPeaks sep f l, before j v := fun j hj =>
      hv j ((separate_sublist maxPeaks sep f l).subset hj) v (by simp)
    rw [separate_concat] at hout ⊢
    rcases acceptBin_cases maxPeaks sep f (separate maxPeaks sep f l) v with
      ⟨hroom, _, he⟩ | ⟨hwhy, he⟩ <;> rw [he] at hout ⊢
    · have hi' : i ∈ l := (List.mem_append.1 hi).resolve_right fun h => hout (List.mem_append_right _ h)
      rcases ih hl' hi' (fun h => hout (by simp [h])) with ⟨hfull, _⟩ | ⟨j, hj, hnear⟩
      · omega
      · exact .inr ⟨j, by simp [hj], hnear⟩
    · rcases List.mem_append.1 hi with hi | hi
      · exact ih hl' hi hout
      · obtain rfl := List.mem_singleton.1 hi
        rcases hwhy with hfull | ⟨j, hj, hnear⟩
        · exact .inl ⟨(separate_length_le maxPeaks sep f l).antisymm hfull, hbefore⟩
        · exact .inr ⟨j, hj, hbefore j hj, hnear⟩

end

/-! ### The bins of the peak table -/

/-- The peak at bin `i` of the state's histogram. -/
def binPeak (s : State) (i : Nat) : Peak := peakAt s.mem s.histNb.toNat i

/-- The state's candidates in the order offered. -/
def stateCandidates (s : State) : List Nat :=
  candidates s.params.peakOrder s.mem s.histNb.toNat s.peakThr.toNat

/-- The bins whose peaks PEAK.FIND puts in the table, in its order. -/
def peakBins (s : State) : List Nat :=
  (separate s.params.maxPeaks s.peakSep.toNat (binPeak s) (stateCandidates s)).insertionSort
    fun i j => (binPeak s i).pos ≤ (binPeak s j).pos

theorem findPeaks_eq_map (s : State) : findPeaks s = (peakBins s).map (binPeak s) := by
  rw [peakBins, List.map_insertionSort (s := fun p q : Peak => p.pos ≤ q.pos) _ _ _
    fun _ _ _ _ => Iff.rfl, ← foldl_acceptPeak_map]
  rfl

theorem peakBins_perm (s : State) :
    (peakBins s).Perm (separate s.params.maxPeaks s.peakSep.toNat (binPeak s) (stateCandidates s)) :=
  List.perm_insertionSort _ _

theorem peakBins_length (s : State) : (peakBins s).length = (findPeaks s).length := by
  rw [findPeaks_eq_map, List.length_map]

theorem peakBins_nodup (s : State) : (peakBins s).Nodup :=
  (peakBins_perm s).nodup_iff.2 ((candidates_nodup ..).sublist (separate_sublist ..))

theorem mem_stateCandidates_of_mem_peakBins {s : State} {i : Nat} (h : i ∈ peakBins s) :
    i ∈ stateCandidates s :=
  (separate_sublist ..).subset ((peakBins_perm s).mem_iff.1 h)

/-- In ascending position, and at least PEAK_SEP apart. -/
theorem peakBins_separated (s : State) :
    (peakBins s).Pairwise fun i j => (binPeak s i).pos + s.peakSep.toNat ≤ (binPeak s j).pos := by
  have hsorted := findPeaks_sorted s
  rw [findPeaks_eq_map, List.pairwise_map] at hsorted
  have hsep := (peakBins_perm s).symm.pairwise (separate_separated ..) fun h => by
    rwa [distance_comm]
  refine (hsorted.and hsep).imp fun ⟨hle, hd⟩ => ?_
  rw [distance_eq, if_pos hle] at hd
  omega

theorem peakBins_maximal {s : State} {i : Nat} (hi : i ∈ stateCandidates s) (hout : i ∉ peakBins s) :
    ((peakBins s).length = s.params.maxPeaks ∧
      ∀ j ∈ peakBins s, OfferedBefore s.params.peakOrder s.mem s.histNb.toNat j i) ∨
    ∃ j ∈ peakBins s, OfferedBefore s.params.peakOrder s.mem s.histNb.toNat j i ∧
      distance (binPeak s i).pos (binPeak s j).pos < s.peakSep.toNat := by
  have hperm := peakBins_perm s
  simp only [hperm.mem_iff, hperm.length_eq] at hout ⊢
  exact separate_maximal _ _ _ (candidates_offered ..) hi hout

theorem distance_lt_iff (a b d : Nat) : distance a b < d ↔ a < b + d ∧ b < a + d := by
  rw [distance_eq]
  split_ifs <;> omega

/-! ### The peaks fit their registers (R60) -/

/-- The position and the count of a bin are 32-bit numbers if the bins are bounded as `AnalyserInv` has it:
of that invariant only the bounds matter, so it is asked of a cleared analyser with these bins. -/
theorem binPeak_lt {s : State} (hl : s.params.legal = true)
    (hcnt : ∀ i, (binCntRead s.mem i).toNat ≤ s.params.fluxDepth)
    (hsum : ∀ i, (binSumRead s.mem i).toNat ≤ (binCntRead s.mem i).toNat * (2 ^ 32 - 1)) (i : Nat) :
    (binPeak s i).pos < 2 ^ 32 ∧ (binPeak s i).cnt < 2 ^ 32 := by
  have hcleared := analyserInv_cleared s
  have hinv : AnalyserInv { analyserClear s with mem := s.mem } :=
    { hcleared with histNotEmpty := fun h => (by cases h), counts := hcnt, sums := hsum }
  refine ⟨peakAt_pos_lt hinv s.histNb.toNat i, ?_⟩
  obtain ⟨_, ⟨_, hmax⟩, _⟩ := legal_iff.1 hl
  have hlen := window_length_le s.histNb.toNat i
  have hle : (binPeak s i).cnt ≤ (window s.histNb.toNat i).length * 2 ^ 24 := by
    rw [← List.length_map (f := fun j => (binCntRead s.mem j).toNat)]
    refine List.sum_le_card_nsmul _ _ (List.forall_mem_map.2 fun j _ => (hcnt j).trans hmax)
  omega

/-- Settles O46: `peakBins` are the bins of the table; its positions and counts are those of the statement,
as a bin's window is the bins in use at most two away. -/
theorem peakFindPeaks : Obligations.PeakFindPeaks := by
  unfold Obligations.PeakFindPeaks
  intro s hv hl hcnt hsum nb c near num tot pos cand before
  obtain ⟨t, ht⟩ := exec_next .peakFind s
  rcases exec_peakFind_cases ht with ⟨h0, _⟩ | ⟨_, rfl⟩
  · cases hv.symm.trans h0
  have hcand : ∀ i, i ∈ stateCandidates s ↔ cand i := fun i =>
    mem_candidates.trans (and_congr_right fun _ => isCandidate_iff)
  have hbins : ∀ i ∈ peakBins s, cand i := fun i hi =>
    (hcand i).1 (mem_stateCandidates_of_mem_peakBins hi)
  have hpeak : ∀ i, cand i → binPeak s i = ⟨pos i, num i⟩ := fun i hi => by
    rw [binPeak, peakAt, window_cnt_sum hi.1, window_tot_sum hi.1]
    rfl
  have hpos : ∀ i, cand i → (binPeak s i).pos = pos i := fun i hi => by rw [hpeak i hi]
  have hbefore : ∀ i j, OfferedBefore s.params.peakOrder s.mem nb i j ↔ before i j := fun i j => by
    simp only [OfferedBefore, before]
    cases s.params.peakOrder <;> rfl
  refine ⟨_, ht, rfl, peakBins s, ?_, ?_, peakBins_nodup s, hbins, ?_, fun k => ?_, fun i hi => ?_,
    fun i hi hout => ?_⟩
  · rw [findPeaks_length_toNat hl, peakBins_length]
  · rw [peakBins_length]
    exact findPeaks_length_le s
  · refine (peakBins_separated s).imp_of_mem fun {i j} hi hj hsep => ?_
    rwa [hpos i (hbins i hi), hpos j (hbins j hj)] at hsep
  · refine (peakTable_getElem (findPeaks s) k.val k.isLt).trans ?_
    rw [findPeaks_eq_map, List.getElem?_map]
    cases hk : (peakBins s)[k.val]? with
    | none => rfl
    | some i =>
      simp only [Option.map_some, hpeak i (hbins i (List.mem_of_getElem? hk))]
  · have hlt := binPeak_lt hl hcnt hsum i
    rwa [hpeak i (hbins i hi)] at hlt
  · rcases peakBins_maximal ((hcand i).2 hi) hout with ⟨hfull, hall⟩ | ⟨j, hj, hb, hnear⟩
    · exact .inl ⟨hfull, fun j hj => (hbefore j i).1 (hall j hj)⟩
    · refine .inr ⟨j, hj, (hbefore j i).1 hb, ?_⟩
      rwa [distance_lt_iff, hpos i hi, hpos j (hbins j hj)] at hnear

end Sys2Proof.Machine
end

section
/-! PROOFS. The control commands and FLUX.CLR (spec/46_control.md R430, R431, spec/45_flux_analyser.md
R380): each line of R431's table as an update of its unit's fields alone, so that the whole table is one
such update. -/

namespace Sys2Proof.Machine

/-! ### The lines of R431's table, each on its own fields -/

section
variable (mask : BitVec 8) (bit : Nat) (s : State)

theorem srstLine_mfm :
    srstLine mask bit (fun s => { s with mfm := .cleared }) s =
      { s with mfm := if mask.getLsbD bit then .cleared else s.mfm } := by
  unfold srstLine
  cases mask.getLsbD bit <;> rfl

theorem srstLine_fm :
    srstLine mask bit (fun s => { s with fm := .cleared }) s =
      { s with fm := if mask.getLsbD bit then .cleared else s.fm } := by
  unfold srstLine
  cases mask.getLsbD bit <;> rfl

theorem srstLine_m2 :
    srstLine mask bit (fun s => { s with m2 := .cleared }) s =
      { s with m2 := if mask.getLsbD bit then .cleared else s.m2 } := by
  unfold srstLine
  cases mask.getLsbD bit <;> rfl

theorem srstLine_g5 :
    srstLine mask bit (fun s => { s with g5 := .cleared }) s =
      { s with g5 := if mask.getLsbD bit then .cleared else s.g5 } := by
  unfold srstLine
  cases mask.getLsbD bit <;> rfl

theorem srstLine_appleClear :
    srstLine mask bit appleClear s =
      { s with
        aplsr := if mask.getLsbD bit then 0 else s.aplsr
        apro := if mask.getLsbD bit then .idle else s.apro } := by
  unfold srstLine
  cases mask.getLsbD bit <;> rfl

theorem srstLine_enc :
    srstLine mask bit (fun s => { s with enc := .cleared }) s =
      { s with enc := if mask.getLsbD bit then .cleared else s.enc } := by
  unfold srstLine
  cases mask.getLsbD bit <;> rfl

theorem srstLine_crcClear :
    srstLine mask bit crcClear s =
      { s with
        crc16 := if mask.getLsbD bit then s.crc16Initv else s.crc16
        crc32 := if mask.getLsbD bit then 0xFFFFFFFF else s.crc32
        crc32be := if mask.getLsbD bit then 0xFFFFFFFF else s.crc32be
        amiacc := if mask.getLsbD bit then 0 else s.amiacc } := by
  unfold srstLine
  cases mask.getLsbD bit <;> rfl

theorem srstLine_analyserClear :
    srstLine mask bit analyserClear s =
      { s with
        fluxcnt := if mask.getLsbD bit then 0 else s.fluxcnt
        mem := if mask.getLsbD bit then binsClear s.mem else s.mem
        histMin := if mask.getLsbD bit then 0 else s.histMin
        histNb := if mask.getLsbD bit then 0 else s.histNb
        histOor := if mask.getLsbD bit then 0 else s.histOor
        peakN := if mask.getLsbD bit then 0 else s.peakN
        peaks := if mask.getLsbD bit then noPeaks else s.peaks
        reading := if mask.getLsbD bit then .cleared else s.reading
        histValid := !mask.getLsbD bit && s.histValid
        peaksValid := !mask.getLsbD bit && s.peaksValid
        classValid := !mask.getLsbD bit && s.classValid } := by
  unfold srstLine
  cases mask.getLsbD bit <;> rfl

end

/-! ### The commands -/

/-- R430. -/
theorem exec_nop (s : State) : exec .nop s = .next (clearEvt s) := rfl

/-- R431. -/
theorem exec_srst (mask : BitVec 8) (s : State) :
    exec (.srst mask) s = .next (softReset mask (clearEvt s)) := rfl

/-- R380, R431: FLUX.CLR is the table's line of mask bit 7, after the clearing of EVT. -/
theorem exec_fluxClr (s : State) : exec .fluxClr s = .next (analyserClear (clearEvt s)) := rfl

/-- Settles O14: the lines of R431's table touch disjoint fields, so their updates collect into one; the
other two commands are one update as they stand. -/
theorem controlAndClearCommands : Obligations.ControlAndClearCommands := by
  unfold Obligations.ControlAndClearCommands
  refine fun s => ⟨exec_nop s, fun m => ?_, exec_fluxClr s⟩
  rw [exec_srst, softReset, srstLine_mfm, srstLine_fm, srstLine_m2, srstLine_g5, srstLine_appleClear,
    srstLine_enc, srstLine_crcClear, srstLine_analyserClear]
  rfl

end Sys2Proof.Machine
end

section
/-! PROOFS. Rejections and STATUS (spec/60_exceptions.md R440 to R446): one case split over the commands
says which of them their own checks reject and that no other one reports REJECTED; STATUS only gains
bits but for hardware reset and its own write. -/

namespace Sys2Proof.Machine

/-! ### The grounds of a command's own rejection (R440, R442 items 4 to 6) -/

/-- R440, R442 items 4 to 6: the own check of a command fails in the state. -/
def OwnCheckFails (s : State) (i : Instr) : Prop :=
  (i = .fluxPush ∧ s.fluxcnt.toNat = s.params.fluxDepth) ∨
  (i = .histBuild ∧ (s.histW = 0 ∨ s.fluxcnt = 0)) ∨
  (i = .peakFind ∧ s.histValid = false) ∨ (i = .classify ∧ s.peaksValid = false) ∨
  (i = .fluxCells ∧ s.cellNs = 0)

/-- A command either fails its own check, and is rejected with another code than BUS_ERR, or passes it
(or has none), and does not report REJECTED. -/
theorem exec_ownCheck_cases {i : Instr} {s t : State} (h : exec i s = .next t) :
    (OwnCheckFails s i ∧ ∃ c, c ≠ .busErr ∧ t = reject c s) ∨
    (¬OwnCheckFails s i ∧ t.evt.getLsbD 7 = false) := by
  have proper {e : Events} (he : e.Proper) : e.pack.getLsbD 7 = false :=
    (pack_rejected e).trans he.accepted
  have silent (he : t.evt = 0) : t.evt.getLsbD 7 = false := he ▸ BitVec.getLsbD_zero
  cases i
  case fluxPush =>
    rcases exec_fluxPush_cases h with ⟨hd, rfl⟩ | ⟨hd, rfl⟩
    · exact .inl ⟨.inl ⟨rfl, hd⟩, .fluxFull, by decide, rfl⟩
    · exact .inr ⟨by simpa [OwnCheckFails] using hd, silent rfl⟩
  case histBuild =>
    rcases exec_histBuild_cases h with ⟨hw, rfl⟩ | ⟨_, hc, rfl⟩ | ⟨hw, hc, rfl⟩
    · exact .inl ⟨.inr (.inl ⟨rfl, .inl hw⟩), .badOperand, by decide, rfl⟩
    · exact .inl ⟨.inr (.inl ⟨rfl, .inr hc⟩), .seqErr, by decide, rfl⟩
    · exact .inr ⟨by simpa [OwnCheckFails] using ⟨hw, hc⟩, silent rfl⟩
  case peakFind =>
    rcases exec_peakFind_cases h with ⟨hv, rfl⟩ | ⟨hv, rfl⟩
    · exact .inl ⟨.inr (.inr (.inl ⟨rfl, hv⟩)), .seqErr, by decide, rfl⟩
    · exact .inr ⟨by simpa [OwnCheckFails] using hv, silent rfl⟩
  case classify =>
    rcases exec_classify_cases h with ⟨hv, rfl⟩ | ⟨hv, rfl⟩
    · exact .inl ⟨.inr (.inr (.inr (.inl ⟨rfl, hv⟩))), .seqErr, by decide, rfl⟩
    · refine .inr ⟨by simpa [OwnCheckFails] using hv, silent ?_⟩
      rcases classifyPeaks_cases s with ⟨_, he⟩ | ⟨_, _, _, _, he⟩ <;> rw [he] <;> rfl
  case fluxCells =>
    rcases exec_fluxCells_cases h with ⟨hc, rfl⟩ | ⟨hc, rfl⟩
    · exact .inl ⟨.inr (.inr (.inr (.inr ⟨rfl, hc⟩))), .badOperand, by decide, rfl⟩
    · exact .inr ⟨by simpa [OwnCheckFails] using hc, silent rfl⟩
  all_goals refine .inr ⟨by simp [OwnCheckFails], ?_⟩
  case mfmDecCell | m2fmDecCell => exact Host.Outcome.next.inj h ▸ proper (framerStep_proper ..)
  case fmDecCell => exact Host.Outcome.next.inj h ▸ proper (fmFramerStep_proper ..)
  case gcr5DecCell => exact Host.Outcome.next.inj h ▸ proper (gcr5FramerStep_proper ..)
  case gcr5DecCode | gcr5DecWord | a62Dec | a53Dec =>
    exact Host.Outcome.next.inj h ▸ proper (proper_decErr _)
  case aproStep => exact Host.Outcome.next.inj h ▸ proper (proper_mark _)
  case aplDecCell =>
    rcases exec_aplDecCell_cases h with ⟨_, rfl⟩ | ⟨_, rfl⟩
    · exact proper (proper_byte ..)
    · exact silent rfl
  case srst mask =>
    obtain rfl := Host.Outcome.next.inj h
    exact silent (congrArg Prod.fst (reportView_softReset mask (clearEvt s)))
  case mfmEncSync kind => cases kind <;> exact silent (Host.Outcome.next.inj h ▸ rfl)
  all_goals exact silent (Host.Outcome.next.inj h ▸ rfl)

theorem exec_rejected_iff {i : Instr} {s t : State} (h : exec i s = .next t) :
    t.evt.getLsbD 7 = true ↔ OwnCheckFails s i := by
  rcases exec_ownCheck_cases h with ⟨hf, c, _, rfl⟩ | ⟨hf, he⟩
  · exact iff_of_true (reject_rejected c s) hf
  · exact iff_of_false (Bool.eq_false_iff.1 he) hf

/-- R440, R441: the codes 1 to 4 as numbers, with the STATUS bit of each. -/
theorem reject_eq_code {c : ErrorCode} (hc : c ≠ .busErr) (s : State) :
    ∃ n : Nat, 1 ≤ n ∧ n ≤ 4 ∧
      reject c s =
        { s with
          evt := 0x80
          status := s.status ||| BitVec.ofNat 7 (2 ^ (n - 1))
          errcode := BitVec.ofNat 4 n } := by
  cases c
  case busErr => exact absurd rfl hc
  case illegalCmd => exact ⟨1, by decide, by decide, rfl⟩
  case badOperand => exact ⟨2, by decide, by decide, rfl⟩
  case seqErr => exact ⟨3, by decide, by decide, rfl⟩
  case fluxFull => exact ⟨4, by decide, by decide, rfl⟩

theorem rejectCode_ne_busErr (e : DecodeError) : rejectCode e ≠ .busErr := by cases e <;> decide

/-- A command word that reports REJECTED is a rejection, as a word or by the command's own check. -/
theorem runCommand_rejected {w : Word} {s t : State} (h : runCommand w s = .next t)
    (hr : t.evt.getLsbD 7 = true) : ∃ c, c ≠ .busErr ∧ t = reject c s := by
  cases hd : decode w with
  | error e =>
    obtain rfl := Host.Outcome.next.inj ((runCommand_error hd s).symm.trans h)
    exact ⟨_, rejectCode_ne_busErr e, rfl⟩
  | ok i =>
    rcases exec_ownCheck_cases ((runCommand_ok hd s).symm.trans h) with ⟨_, hc⟩ | ⟨_, he⟩
    · exact hc
    · exact absurd hr (Bool.eq_false_iff.1 he)

/-- Settles O50: a rejected word is `reject` with one of the codes 1 to 4. -/
theorem rejectionChangesOnlyReport : Obligations.RejectionChangesOnlyReport := by
  unfold Obligations.RejectionChangesOnlyReport
  intro w s t h hr
  obtain ⟨c, hc, rfl⟩ := runCommand_rejected h hr
  exact reject_eq_code hc s

/-! ### The report of an accepted command (R444) -/

/-- HIST_OOR holds the number of samples out of range without loss, for FLUX_CNT has its width:
STATUS.HIST_OOR is set exactly when HIST_OOR is not 0 (R382, R444). -/
theorem histBuild_status_or (w : Nat) (s : State) :
    (histBuild w s).status = s.status ||| (if (histBuild w s).histOor ≠ 0 then 0x40 else 0) := by
  obtain ⟨n, hn⟩ : ∃ n, n =
      (binSamples s.params.nbins w (leastSample (fluxSamples s)) (fluxSamples s)).oor := ⟨_, rfl⟩
  have hlt : n < 2 ^ 32 :=
    (hn ▸ (binSamples_oor_le ..).trans (fluxSamples_length s).le).trans_lt s.fluxcnt.isLt
  have hzero : BitVec.ofNat 32 n ≠ 0 ↔ 0 < n := by
    rw [← BitVec.toNat_inj.ne, BitVec.toNat_ofNat, Nat.mod_eq_of_lt hlt]
    exact Nat.pos_iff_ne_zero.symm
  simp only [histBuild, ← hn]
  by_cases hpos : 0 < n
  · rw [if_pos hpos, if_pos (hzero.2 hpos)]
    rfl
  · rw [if_neg hpos, if_neg (mt hzero.1 hpos)]
    exact BitVec.or_zero.symm

/-- An accepted command leaves ERRCODE, and sets STATUS.DEC_ERR and STATUS.HIST_OOR alone. -/
theorem exec_accepted_report {i : Instr} {s t : State} (h : exec i s = .next t)
    (ha : t.evt.getLsbD 7 = false) :
    t.errcode = s.errcode ∧
    t.status =
      s.status ||| (if t.evt.getLsbD 4 then 0x20 else 0) |||
        (if i = .histBuild ∧ t.histOor ≠ 0 then 0x40 else 0) := by
  have accepted {c : ErrorCode} : t ≠ reject c s := fun ht => by
    rw [ht, reject_rejected] at ha
    cases ha
  by_cases hi : i = .histBuild
  · subst hi
    rcases exec_histBuild_cases h with ⟨_, ht⟩ | ⟨_, _, ht⟩ | ⟨_, _, rfl⟩
    · exact absurd ht accepted
    · exact absurd ht accepted
    · have hevt : (histBuild s.histW.toNat s).evt.getLsbD 4 = false := BitVec.getLsbD_zero
      refine ⟨rfl, ?_⟩
      simp only [hevt, histBuild_status_or, true_and, Bool.false_eq_true, if_false,
        BitVec.ofNat_eq_ofNat, BitVec.or_zero]
  · rcases exec_report_cases h with ⟨c, ht⟩ | ⟨e, _, hv⟩ | ⟨hb, _⟩
    · exact absurd ht accepted
    · simp only [reportView, Prod.mk.injEq, emit_evt, emit_status, emit_errcode] at hv
      obtain ⟨hevt, hst, herr⟩ := hv
      refine ⟨herr, ?_⟩
      rw [hst, hevt, pack_decErr]
      cases e.decErr <;> simp [hi, statusDecErr]
    · exact absurd hb hi

/-- Settles O51: REJECTED is reported exactly when the command's own check fails, and what an accepted
command emits fixes STATUS. -/
theorem acceptedCommandReport : Obligations.AcceptedCommandReport := by
  unfold Obligations.AcceptedCommandReport
  exact fun i s t h => ⟨exec_rejected_iff h, exec_accepted_report h⟩

/-! ### STATUS bits (R445, R446) -/

/-- A command, rejected or accepted, only adds STATUS bits. -/
theorem exec_status_or {i : Instr} {s t : State} (h : exec i s = .next t) :
    ∃ x, t.status = s.status ||| x := by
  rcases exec_ownCheck_cases h with ⟨_, c, _, rfl⟩ | ⟨_, ha⟩
  · exact ⟨_, reject_status c s⟩
  · obtain ⟨_, hst⟩ := exec_accepted_report h ha
    exact ⟨_, hst.trans (BitVec.or_assoc ..)⟩

theorem runCommand_status_or {w : Word} {s t : State} (h : runCommand w s = .next t) :
    ∃ x, t.status = s.status ||| x := by
  cases hd : decode w with
  | ok i => exact exec_status_or ((runCommand_ok hd s).symm.trans h)
  | error e =>
    obtain rfl := Host.Outcome.next.inj ((runCommand_error hd s).symm.trans h)
    exact ⟨_, reject_status _ s⟩

theorem getLsbD_of_eq_or {w k : Nat} {x y z : BitVec w} (h : y = x ||| z) (hk : x.getLsbD k = true) :
    y.getLsbD k = true := by
  rw [h, BitVec.getLsbD_or, hk, Bool.true_or]

theorem serveRead_status_or (off : BitVec 16) (size : Nat) (s : State) :
    ∃ x, (serveRead off size s).status = s.status ||| x := by
  unfold serveRead
  split
  · exact ⟨0, BitVec.or_zero.symm⟩
  · exact ⟨_, busFault_status s⟩

/-- Only STATUS is the register that a write clears (R100). -/
theorem accessReg_eq_status {off : BitVec 16} {size : Nat} (h : accessReg off size = some .status) :
    off = 0x004 ∧ size = 4 := by
  obtain ⟨hsize, hoff⟩ := accessReg_eq_some h
  exact ⟨BitVec.eq_of_toNat_eq hoff.symm, hsize⟩

/-- R446: a STATUS bit written 0 stays as it is. -/
theorem clearStatus_keeps {v : Word} {k : Nat} {s : State} (hk : s.status.getLsbD k = true)
    (hv : v.getLsbD k = false) : (clearStatus v s).status.getLsbD k = true := by
  have hlt : k < 7 := BitVec.lt_of_getLsbD hk
  simp [clearStatus, hk, hv, hlt]

/-- What serving a write does to a set STATUS bit: it stays, or the write is one of 1 to it. -/
theorem serveWrite_status {off : BitVec 16} {size k : Nat} {v : Word} {s t : State}
    (h : serveWrite off size v s = .next t) (hk : s.status.getLsbD k = true) :
    t.status.getLsbD k = true ∨ (off = 0x004 ∧ size = 4 ∧ v.getLsbD k = true) := by
  rcases serveWrite_cases off size v s with
    he | ⟨_, he⟩ | ⟨hreg, he⟩ | ⟨r, _, _, he⟩ <;> rw [he] at h
  · obtain rfl := Host.Outcome.next.inj h
    exact .inl (getLsbD_of_eq_or (busFault_status s) hk)
  · obtain ⟨x, hx⟩ := runCommand_status_or h
    exact .inl (getLsbD_of_eq_or hx hk)
  · obtain rfl := Host.Outcome.next.inj h
    cases hv : v.getLsbD k with
    | false => exact .inl (clearStatus_keeps hk hv)
    | true =>
      obtain ⟨hoff, hsize⟩ := accessReg_eq_status hreg
      exact .inr ⟨hoff, hsize, rfl⟩
  · obtain rfl := Host.Outcome.next.inj h
    obtain ⟨hst, _⟩ := storeReg_frame r v s
    exact .inl (hst ▸ hk)

/-- Settles O10, by the cases of a step: reads, commands and faults only add STATUS bits. -/
theorem statusBitsAreSticky : Obligations.StatusBitsAreSticky := by
  unfold Obligations.StatusBitsAreSticky
  intro s t k hstep hk
  rcases step_cases hstep with
    ⟨_, rfl⟩ | ⟨off, size, rest, _, rfl⟩ | ⟨off, size, v, rest, hp, hw⟩ | ⟨rest, hp, _⟩
  · exact .inl hk
  · obtain ⟨x, hx⟩ := serveRead_status_or off size (takeEvent rest s)
    exact .inl (getLsbD_of_eq_or hx hk)
  · rcases serveWrite_status (s := takeEvent rest s) hw hk with ht | ⟨rfl, rfl, hv⟩
    · exact .inl ht
    · exact .inr (.inr ⟨v, rest, hp, hv⟩)
  · exact .inr (.inl ⟨rest, hp⟩)

/-- Settles O9: offset 0x004 is STATUS, and the bits of its write are the low 7 of the value. -/
theorem statusWriteClearsBits : Obligations.StatusWriteClearsBits := by
  unfold Obligations.StatusWriteClearsBits
  intro s v rest
  rw [step_cons rfl, ← BitVec.setWidth_eq_extractLsb' (by decide)]
  rfl

end Sys2Proof.Machine
end

section
/-! PROOFS. Reset (spec/70_reset_and_hazards.md R480 to R484): the values of the reset state, the
invariants in it, and the accesses of a host that bring a block back to it. -/

namespace Sys2Proof.Machine

open Sys2Proof.Config

/-! ### The reset state (R481) -/

/-- Settles O12: the fields are those of `resetState`, and an offset reads as its register. -/
theorem resetStateValues : Obligations.ResetStateValues := by
  unfold Obligations.ResetStateValues
  refine ⟨rfl, rfl, fun p => ?_⟩
  intro s
  have reads {n : Nat} {v : Word} (r : Reg) (h : regAt n = some r) (hv : readReg r s = v) :
      readsAs n v s := hv ▸ readsAs_of_regAt h s
  refine ⟨⟨reads .id rfl rfl, rfl, rfl, rfl, reads .cmd rfl rfl, rfl, rfl, rfl, rfl, rfl⟩,
    ⟨rfl, rfl, rfl, rfl, rfl⟩,
    ⟨rfl, rfl, reads .crc32Out rfl BitVec.xor_self, rfl, rfl, reads .amiCsum rfl BitVec.zero_and⟩,
    ⟨rfl, rfl, rfl, rfl, rfl, rfl, rfl⟩,
    ⟨rfl, fun _ => ⟨rfl, rfl⟩, rfl, rfl, rfl, rfl, rfl, rfl, rfl, fun k => ?_, rfl⟩,
    bne_eq_false_iff_eq.2 BitVec.zero_and⟩
  show noPeaks[k] = .zero
  simp [noPeaks]

/-- Settles O60: at reset the framers are cleared, the memories empty, the analyser holds nothing,
and nothing is reported. -/
theorem invariantsHoldAtReset : Obligations.InvariantsHoldAtReset := by
  unfold Obligations.InvariantsHoldAtReset
  refine ⟨?framers, ?memories, ?analyser, reportInv_hardwareReset State.reset⟩
  case framers =>
    exact framersInv_of_framersView rfl framerOk_cleared framerOk_cleared (fun _ => rfl)
      gcr5Ok_cleared rfl
  case memories =>
    exact
      { legal := by decide
        wf := wf_reset
        depth := Nat.zero_le _
        inside := fun _ he => absurd he List.not_mem_nil
        written := fun i hi => absurd hi i.not_lt_zero
        cntInUse := fun _ he => absurd he List.not_mem_nil
        sumInUse := fun _ he => absurd he List.not_mem_nil
        bins := Nat.zero_le _ }
  case analyser => exact analyserInv_of_analyserView_eq rfl (analyserInv_cleared State.reset)

/-! ### The soft sequence (R484) -/

/-- A step whose next state has the other events pending is the first of a run. -/
theorem afterEvents_step {e : HostEvent} {es : List HostEvent} {s t : State}
    (h : step { s with pending := e :: es } = .next t) (ht : t.pending = es) :
    afterEvents (e :: es) s = afterEvents es t := by
  subst ht
  exact afterEvents_cons h

theorem regAt_offset_of_rw {r : Reg} (hr : r.accessType = .rw) : regAt r.offset = some r := by
  cases r <;> cases hr <;> rfl

/-- A run that starts with the write of a read-write register goes on from the store. -/
theorem afterEvents_write_rw {r : Reg} (hr : r.accessType = .rw) (v : Word) (es : List HostEvent)
    (s : State) :
    afterEvents (writeEvent r v :: es) s = afterEvents es (storeReg r v (takeEvent es s)) := by
  obtain ⟨_, _, _, _, _, hpend, _⟩ := storeReg_frame r v (takeEvent es s)
  exact afterEvents_step (step_write_rw (regAt_offset_of_rw hr) hr v s es) hpend

/-- R431: SRST of all units leaves of a state what no unit holds, the initial value of CRC16 among it,
and the entries of the flux memory. -/
theorem softReset_all (s : State) :
    softReset 0xFF s =
      { resetState s.params with
        status := s.status, errcode := s.errcode, irqEn := s.irqEn, evt := s.evt
        din0 := s.din0, din1 := s.din1, dout0 := s.dout0, dout1 := s.dout1
        histW := s.histW, peakThr := s.peakThr, peakSep := s.peakSep, cellNs := s.cellNs
        crc16Initv := s.crc16Initv, crc16 := s.crc16Initv, mem := ⟨s.mem.flux, [], []⟩
        pending := s.pending, lastRead := s.lastRead } := by
  have applies (bit : Nat) (hbit : (0xFF : BitVec 8).getLsbD bit = true) (f : State → State) (s : State) :
      srstLine 0xFF bit f s = f s := if_pos hbit
  rw [softReset, applies 0 (by decide), applies 1 (by decide), applies 2 (by decide),
    applies 3 (by decide), applies 4 (by decide), applies 5 (by decide), applies 6 (by decide),
    applies 7 (by decide)]
  rfl

/-- A run that starts with SRST goes on from the reset of the units its mask names (R431). -/
theorem afterEvents_srst (mask : BitVec 8) (es : List HostEvent) (s : State) :
    afterEvents (commandEvent (.srst mask) :: es) s =
      afterEvents es (softReset mask (clearEvt (takeEvent es s))) := by
  refine afterEvents_step ((step_commandEvent _ s es).trans (exec_srst mask _)) ?_
  refine softReset_frame State.pending mask _ ?_ ?_ ?_ ?_ ?_ ?_ ?_ ?_ <;> exact fun _ => rfl

/-- R446: a write of 0x7F to STATUS clears it. -/
theorem afterEvents_clearStatus (s : State) :
    afterEvents [writeEvent .status 0x7F] s = some { takeEvent [] s with status := 0 } := by
  refine (afterEvents_step (statusWriteClearsBits s 0x7F []) rfl).trans ?_
  exact congrArg (fun x => some { takeEvent [] s with status := x }) BitVec.and_zero

/-- Settles O13: hardware reset by one step; the soft sequence write by write, after which every
field but those excepted holds its reset value. -/
theorem hardwareAndSoftReset : Obligations.HardwareAndSoftReset := by
  unfold Obligations.HardwareAndSoftReset
  refine ⟨fun _ _ => rfl, fun s => ?_⟩
  iterate 8 rw [afterEvents_write_rw rfl]
  rw [afterEvents_srst, softReset_all, afterEvents_clearStatus]
  simp only [takeEvent, clearEvt, storeReg]
  rfl

end Sys2Proof.Machine
end
